-- ==== Sys2Proof/Word.lean ====
section
/-! DEFINITION. The word types of the packet engine: bytes, 32-bit and 64-bit words, byte strings
(00_scope.md R10 to R12). -/

namespace Sys2Proof

/-- 8 bits, bit 0 the least significant (00_scope.md R11, R12). -/
abbrev Byte := BitVec 8

/-- 32 bits: a coordinate field, or a word of the keystream generator (00_scope.md R13, R15). -/
abbrev Word := BitVec 32

/-- 64 bits: the nonce counter (10_state.md R22). -/
abbrev DWord := BitVec 64

/-- A byte string, byte 0 first (00_scope.md R11). -/
abbrev Bytes := List Byte

end Sys2Proof
end

