-- ==== Sys2Proof/Syntax.lean ====
section
/-! DEFINITION. The six commands (00_scope.md R9, 30_encoding.md R94): one constructor per row of
spec/opcode_table.json. No command has an operand field (30_encoding.md R93). -/

namespace Sys2Proof

/-- A command of the block. -/
inductive Instr where
  /-- `SER`, code 0x01: serialize the staged record into `D` (40_coordinate_codec.md R117). -/
  | ser
  /-- `DES`, code 0x02: deserialize `D` into the staged record (40_coordinate_codec.md R118). -/
  | des
  /-- `APPLY`, code 0x03: XOR the keystream into `D` (42_xor_datapath.md R166). -/
  | apply
  /-- `NEXTN`, code 0x04: emit the next nonce into `N` (43_nonce_sequencer.md R180). -/
  | nextn
  /-- `BUILD`, code 0x05: frame `N` and `D` into `P` (44_packet_framer.md R195). -/
  | build
  /-- `PARSE`, code 0x06: split `P` into `N` and `D` (44_packet_framer.md R196). -/
  | parse
deriving DecidableEq, Repr

end Sys2Proof
end

