-- ==== Sys2Proof/Decode.lean ====
section
/-! DEFINITION. The command codes (30_encoding.md R93, R94, R96): the decoder, total on every byte and rejecting by name,
and the encoder. -/

namespace Sys2Proof

/-- Why a byte string is no command. -/
inductive DecodeError where
  /-- There is no byte to decode. -/
  | noByte
  /-- The code is unassigned: 0x00 or 0x07 to 0xff (30_encoding.md R96). -/
  | illegalCommand (code : Byte)
deriving DecidableEq, Repr

/-- The command of an 8-bit code; a decoder matches all 8 bits (30_encoding.md R94). -/
def decodeCode (code : Byte) : Except DecodeError Instr :=
  if code = 0x01#8 then .ok .ser
  else if code = 0x02#8 then .ok .des
  else if code = 0x03#8 then .ok .apply
  else if code = 0x04#8 then .ok .nextn
  else if code = 0x05#8 then .ok .build
  else if code = 0x06#8 then .ok .parse
  else .error (.illegalCommand code)

/-- The first command of a byte string, and the rest: all commands are 8 bits long (30_encoding.md R93). -/
def decode : Bytes → Except DecodeError (Instr × Bytes)
  | [] => .error .noByte
  | code :: rest =>
    match decodeCode code with
    | .ok i => .ok (i, rest)
    | .error e => .error e

/-- The commands of a string of codes: "All commands have the same length, 8 bits" (30_encoding.md R93). -/
def decodeAll : Bytes → Except DecodeError (List Instr)
  | [] => .ok []
  | code :: rest =>
    match decodeCode code, decodeAll rest with
    | .ok i, .ok is => .ok (i :: is)
    | .ok _, .error e => .error e
    | .error e, _ => .error e

/-- The code of a command (30_encoding.md R94). -/
def encodeCode : Instr → Byte
  | .ser => 0x01#8
  | .des => 0x02#8
  | .apply => 0x03#8
  | .nextn => 0x04#8
  | .build => 0x05#8
  | .parse => 0x06#8

/-- The byte string of a command. -/
def encode (i : Instr) : Bytes := [encodeCode i]

/-- The bytes of an instruction of `nbits` bits numbered as spec/opcode_table.json numbers them: byte 0 is bits 7..0;
bits above `nbits` are 0. At least one byte, the length of every command. -/
def tableBytes (nbits w : Nat) : Bytes :=
  [BitVec.ofNat 8 (w % 2 ^ nbits)]

/-- The instruction the decoder reads from the bits `w` of a table row. -/
def decodeTableWord (nbits w : Nat) : Option Instr :=
  match decode (tableBytes nbits w) with
  | .ok (i, _) => some i
  | .error _ => none

end Sys2Proof
end

