-- ==== Sys2Proof/Config.lean ====
section
/-! DEFINITION. What an implementation fixes (00_scope.md R6) and the free values. The parameters are plain data that
State carries, so that a statement about every state holds for every value of them; the key, the prefix, the bytes of a
keystream function other than the default and the contents after a reset are constants with no body. -/

namespace Sys2Proof

/-- `FLAG_POLICY`: what deserialize does with a flag byte that is neither 0 nor 1 (00_scope.md R6,
40_coordinate_codec.md R115). -/
inductive FlagPolicy where
  | reject
  | nonzeroPresent
  | absent
deriving DecidableEq, Repr

/-- What a keystream function other than the default brings (00_scope.md R6, 41_keystream_generator.md R131, R134, R144;
log 10): which function it is, one less than its `KS_BLOCK_LEN`, its `KS_CTR_BITS`, and the pairs of key and nonce for
which its `KSInitOK` is false. -/
structure KsInstance where
  id : Nat
  blockLenPred : Nat
  ctrBits : Nat
  refuses : List (Bytes × Bytes)
deriving DecidableEq, Repr

/-- `KSBlock`: the keystream block function, the default ChaCha20 or any other instance (00_scope.md R6,
41_keystream_generator.md R131, R134). -/
inductive KsChoice where
  | chacha20
  | other (inst : KsInstance)
deriving DecidableEq, Repr

/-- The OPEN parameters of 00_scope.md R6 that are neither the key nor the prefix: `DCAP` and `PCAP` (0 to 255),
`FLAG_POLICY` and `KSBlock`. No command and no host action changes them. -/
structure Params where
  dcap : Fin 256
  pcap : Fin 256
  flagPolicy : FlagPolicy
  ks : KsChoice
deriving DecidableEq, Repr

/-- The suggested capacities and the default policy and cipher of 00_scope.md R6 (DESIGN CHOICE, log 1). -/
def Config.suggestedParams : Params :=
  { dcap := 243, pcap := 255, flagPolicy := .reject, ks := .chacha20 }

/-- Byte `i` of the parameter `KEY`: any 32 bytes (00_scope.md R6; log 2). -/
opaque Config.keyByte : Nat → Byte

/-- Byte `i` of the parameter `DEVID`: any 4 bytes (00_scope.md R6; log 2). -/
opaque Config.devidByte : Nat → Byte

/-- Byte `off` of block `j` of the keystream function `id` for a key and a nonce: nothing is known of it but that it is
a function of these (41_keystream_generator.md R131, R142; log 10). -/
opaque Config.otherKsByte (id : Nat) (key nonce : Bytes) (j off : Nat) : Byte

/-- What reset action number `k` leaves in `LAT`: "treats each such bit as a free input" (10_state.md R33; log 5). -/
opaque Config.freeLat : Nat → Word
/-- What reset action number `k` leaves in `LON` (10_state.md R33; log 5). -/
opaque Config.freeLon : Nat → Word
/-- What reset action number `k` leaves in `AF` (10_state.md R33; log 5). -/
opaque Config.freeAf : Nat → Bool
/-- What reset action number `k` leaves in `ALT` (10_state.md R33; log 5). -/
opaque Config.freeAlt : Nat → Word
/-- What reset action number `k` leaves in `N[i]` (10_state.md R33; log 5). -/
opaque Config.freeN : Nat → Nat → Byte
/-- What reset action number `k` leaves in `D[i]` (10_state.md R33; log 5). -/
opaque Config.freeD : Nat → Nat → Byte
/-- What reset action number `k` leaves in `P[i]` (10_state.md R33; log 5). -/
opaque Config.freeP : Nat → Nat → Byte

end Sys2Proof
end

