-- ==== Sys2Proof/Machine/Port.lean ====
section
/-! DEFINITION. The block's one port: the host actions of 10_state.md R36, what a read returns, and the items the model
queues (single actions, and the stop-at-first-failure sequences of 45_pipelines.md R212). -/

namespace Sys2Proof.Machine

/-- The two data spaces (20_memory.md R50). -/
inductive Buf where
  | d
  | p
deriving DecidableEq, Repr

/-- The registers the host may read (10_state.md R36, first row). `KEY` and `DEVID` are not among them. -/
inductive Reg where
  | ctr
  | lat
  | lon
  | af
  | alt
  | n
  | dlen
  | plen
  | status
deriving DecidableEq, Repr

/-- The value a host read returns (10_state.md R36; 20_memory.md R53). -/
inductive Reply where
  /-- `CTR`. -/
  | dword (v : DWord)
  /-- `LAT`, `LON`, `ALT`. -/
  | word (v : Word)
  /-- `AF`. -/
  | bit (v : Bool)
  /-- `DLEN`, `PLEN`, `STATUS`, a byte of `D` or of `P`. -/
  | byte (v : Byte)
  /-- `N`. -/
  | nonce (v : Vector Byte 12)
deriving DecidableEq, Repr

/-- One row of the closed list of 10_state.md R36. -/
inductive HostAction where
  | readReg (r : Reg)
  | readByte (b : Buf) (i : Nat)
  | writeLat (v : Word)
  | writeLon (v : Word)
  | writeAlt (v : Word)
  | writeAf (v : Bool)
  | writeN (i : Nat) (v : Byte)
  | writeByte (b : Buf) (i : Nat) (v : Byte)
  | writeDlen (v : Nat)
  | writePlen (v : Nat)
  | issue (code : Byte)
  | reset
deriving DecidableEq, Repr

/-- What the host has asked for: one action, or actions run one after the other until a command ends with `STATUS` not 0
(30_encoding.md R100, 45_pipelines.md R212). -/
inductive PortItem where
  | act (a : HostAction)
  | whileOk (as : List HostAction)
deriving DecidableEq, Repr

/-- `DCAP` or `PCAP` (00_scope.md R6). -/
def capacity (prm : Params) : Buf → Nat
  | .d => prm.dcap.val
  | .p => prm.pcap.val

end Sys2Proof.Machine
end

