-- ==== Sys2Proof/Machine/State.lean ====
section
/-! DEFINITION. The state of the block (10_state.md R20), with the parameters it is run under and the model's own fields,
the state after reset (R33), and the reasons a step can stop. -/

namespace Sys2Proof.Machine

/-- The contents of a buffer as (offset, byte) pairs, offsets strictly rising, no pair holding what an unlisted offset
reads as (20_memory.md R50, R51; log 4). -/
abbrev Memory := List Host.Cell

/-- Why the machine stops with a fault. The spec has no fault: its errors are results in `STATUS`. -/
inductive Fault where
  /-- An access to an offset the buffer does not have. Raised by a host access to an index outside the capacity, which
  "does not exist as an action" (10_state.md R36), and by a command's access outside the capacity, which "cannot happen"
  (20_memory.md R57) while the lengths keep within the capacities. Safe (log 9). -/
  | outsideBuffer (b : Buf)
  /-- A host write to `N[i]` with `i` not below 12, which does not exist as an action (10_state.md R36). Safe (log 9). -/
  | outsideNonce
deriving DecidableEq, Repr

/-- Why the machine refuses. -/
inductive Refusal where
  /-- The command has no meaning yet. Raised by an arm of exec. Safe. -/
  | notModelled (mnemonic : String)
  /-- APPLY on more data than the block counter of the keystream function can serve: "a model refuses it rather than wrap"
  (41_keystream_generator.md R143). Raised by APPLY, never under the default keystream function. Safe (log 12). -/
  | keystreamExhausted
deriving DecidableEq, Repr

/-- The machine. The fields `key` to `status` are 10_state.md R20; `params` are the OPEN parameters of 00_scope.md R6;
`pending`, `replies` and `draws` are the model's own (log 5, 6, 7). -/
structure State where
  /-- The parameters the block is built with; never changed (00_scope.md R6). -/
  params : Params
  /-- `KEY`, the shared secret; never changed (10_state.md R24). -/
  key : Vector Byte 32
  /-- `DEVID`, the device-identifier prefix; never changed (10_state.md R26). -/
  devid : Vector Byte 4
  /-- `CTR`, the nonce counter (10_state.md R22). -/
  ctr : DWord
  /-- `LAT`, signed (10_state.md R28). -/
  lat : Word
  /-- `LON`, signed (10_state.md R28). -/
  lon : Word
  /-- `AF`: the record has an altitude (10_state.md R28). -/
  af : Bool
  /-- `ALT`, signed; part of the record only while `AF` is 1 (10_state.md R28). -/
  alt : Word
  /-- `N`, the nonce of the packet in hand (10_state.md R29). -/
  n : Vector Byte 12
  /-- `D`, the data buffer (10_state.md R30). -/
  d : Memory
  /-- `DLEN`, the number of valid bytes of `D`. -/
  dlen : Byte
  /-- `P`, the packet buffer (10_state.md R30). -/
  p : Memory
  /-- `PLEN`, the number of valid bytes of `P`. -/
  plen : Byte
  /-- `STATUS`, the result code of the last command (10_state.md R32). -/
  status : Byte
  /-- The host's list of actions not yet performed (45_pipelines.md R214; log 6). -/
  pending : List PortItem
  /-- What the host has read so far, oldest first (log 7). -/
  replies : List Reply
  /-- How many reset actions have drawn free values (log 5). -/
  draws : Nat
deriving DecidableEq, Repr

/-- The machine right after reset (10_state.md R33, 70_reset_and_hazards.md R265): `CTR`, `STATUS`, `DLEN`, `PLEN` are 0;
`KEY` and `DEVID` are the parameters; what R33 leaves unspecified is 0 here (DESIGN CHOICE, log 3, log 4). -/
def State.reset : State where
  params := Config.suggestedParams
  key := Vector.ofFn fun i => Config.keyByte i.val
  devid := Vector.ofFn fun i => Config.devidByte i.val
  ctr := 0#64
  lat := 0#32
  lon := 0#32
  af := false
  alt := 0#32
  n := Vector.replicate 12 0#8
  d := []
  dlen := 0#8
  p := []
  plen := 0#8
  status := 0#8
  pending := []
  replies := []
  draws := 0

end Sys2Proof.Machine
end

