-- ==== Sys2Proof/Machine/Flags.lean ====
section
/-! DEFINITION. The block has no condition codes (10_state.md R32). Its one status register holds a result code
(60_exceptions.md R226); its one flag is the altitude-presence byte of the plaintext (30_encoding.md R88). -/

namespace Sys2Proof.Machine

/-- The error results (00_scope.md R17): the six of the functions and `IllegalCommand` of the command level. -/
inductive CmdError where
  | bufferTooSmall
  | malformedPlaintext
  | invalidKey
  | invalidNonce
  | cipherError
  | packetTooShort
  | illegalCommand
deriving DecidableEq, Repr

/-- The source's classes of errors with members in the block (60_exceptions.md R228). -/
inductive ErrorClass where
  /-- (b): resolved by discarding the packet. -/
  | framingTooShort
  /-- (c): discard and continue. -/
  | cipherInitFailure
  /-- (d): discard and continue. -/
  | plaintextMalformed
  /-- (e): a hard stop for that operation only. -/
  | bufferTooSmall
deriving DecidableEq, Repr

/-- The code `STATUS` takes (60_exceptions.md R226). -/
def CmdError.code : CmdError → Byte
  | .bufferTooSmall => 1#8
  | .malformedPlaintext => 2#8
  | .invalidKey => 3#8
  | .invalidNonce => 4#8
  | .cipherError => 5#8
  | .packetTooShort => 6#8
  | .illegalCommand => 7#8

/-- The code of success (60_exceptions.md R226). -/
def okCode : Byte := 0#8

/-- The class of an error (60_exceptions.md R226, R228); `IllegalCommand` is the spec's own and has none. -/
def CmdError.errorClass : CmdError → Option ErrorClass
  | .bufferTooSmall => some .bufferTooSmall
  | .malformedPlaintext => some .plaintextMalformed
  | .invalidKey => some .cipherInitFailure
  | .invalidNonce => some .cipherInitFailure
  | .cipherError => some .cipherInitFailure
  | .packetTooShort => some .framingTooShort
  | .illegalCommand => none

/-- The flag byte the serializer emits: 1 when the altitude is present, 0 when absent (30_encoding.md R88). -/
def flagByte (present : Bool) : Byte :=
  if present then 0x01#8 else 0x00#8

/-- Whether a flag byte says that the altitude is present (40_coordinate_codec.md R113, and R115 for 0x02 to 0xff). -/
def flagPresent (policy : FlagPolicy) (flag : Byte) : Except CmdError Bool :=
  if flag = 0x00#8 then .ok false
  else if flag = 0x01#8 then .ok true
  else
    match policy with
    | .reject => .error .malformedPlaintext
    | .nonzeroPresent => .ok true
    | .absent => .ok false

end Sys2Proof.Machine
end

