-- ==== Sys2Proof/Machine/Ops.lean ====
section
/-! DEFINITION. The named operations over the state: one update per field, the two buffers as memories, `MemRead` and
`MemWrite` (00_scope.md R16), and ending a command with success or with an error. -/

namespace Sys2Proof.Machine

/-- What a command or a host action answers. -/
abbrev Result := Host.Outcome State Fault Refusal

/-! Field updates. -/

/-- `CTR <- v`. -/
def State.setCtr (v : DWord) (s : State) : State := { s with ctr := v }
/-- `LAT <- v`. -/
def State.setLat (v : Word) (s : State) : State := { s with lat := v }
/-- `LON <- v`. -/
def State.setLon (v : Word) (s : State) : State := { s with lon := v }
/-- `AF <- v`. -/
def State.setAf (v : Bool) (s : State) : State := { s with af := v }
/-- `ALT <- v`. -/
def State.setAlt (v : Word) (s : State) : State := { s with alt := v }
/-- `N <- v`. -/
def State.setN (v : Vector Byte 12) (s : State) : State := { s with n := v }
/-- The contents of `D` become `m`. -/
def State.setD (m : Memory) (s : State) : State := { s with d := m }
/-- `DLEN <- v`. -/
def State.setDlen (v : Byte) (s : State) : State := { s with dlen := v }
/-- The contents of `P` become `m`. -/
def State.setP (m : Memory) (s : State) : State := { s with p := m }
/-- `PLEN <- v`. -/
def State.setPlen (v : Byte) (s : State) : State := { s with plen := v }
/-- `STATUS <- v`. -/
def State.setStatus (v : Byte) (s : State) : State := { s with status := v }
/-- The host's list becomes `l`. -/
def State.setPending (l : List PortItem) (s : State) : State := { s with pending := l }
/-- The host has read `r`. -/
def State.addReply (r : Reply) (s : State) : State := { s with replies := s.replies ++ [r] }
/-- The number of reset actions becomes `k`. -/
def State.setDraws (k : Nat) (s : State) : State := { s with draws := k }

/-! Buffers. -/

/-- What an offset that is not listed reads as (DESIGN CHOICE, log 4: 10_state.md R33 leaves the contents unspecified). -/
def unlistedByte : Byte := 0x00#8

/-- The byte at an offset. -/
def Memory.read : Memory → Nat → Byte
  | [], _ => unlistedByte
  | (k, v) :: rest, a => if k = a then v else Memory.read rest a

/-- Store one byte. The form stays canonical: a byte equal to what an unlisted offset reads as is not listed. -/
def Memory.write : Memory → Nat → Byte → Memory
  | [], a, b => if b = unlistedByte then [] else [(a, b)]
  | (k, v) :: rest, a, b =>
    if a < k then
      if b = unlistedByte then (k, v) :: rest else (a, b) :: (k, v) :: rest
    else if a = k then
      if b = unlistedByte then rest else (k, b) :: rest
    else (k, v) :: Memory.write rest a b

/-- The canonical form: offsets strictly rising, no listed byte equal to what an unlisted offset reads as. -/
def Memory.wf : Memory → Bool
  | [] => true
  | (k, v) :: rest => decide (v ≠ unlistedByte) && rest.all (fun c => decide (k < c.1)) && Memory.wf rest

/-- Every listed offset is below the capacity. -/
def Memory.within (m : Memory) (cap : Nat) : Bool := m.all fun c => decide (c.1 < cap)

/-- `n` bytes from `off` on, byte `off` first. -/
def Memory.readBytes (m : Memory) (off n : Nat) : Bytes :=
  (List.range n).map fun i => m.read (off + i)

/-- Store a byte string at `off` and on, its byte 0 at `off`. -/
def Memory.writeBytes (m : Memory) (off : Nat) : Bytes → Memory
  | [] => m
  | b :: rest => Memory.writeBytes (m.write off b) (off + 1) rest

/-- The contents of a buffer. -/
def State.mem (s : State) : Buf → Memory
  | .d => s.d
  | .p => s.p

/-- The contents of a buffer become `m`; the other buffer stays (10_state.md R30: "disjoint"). -/
def State.setMem (b : Buf) (m : Memory) (s : State) : State :=
  match b with
  | .d => s.setD m
  | .p => s.setP m

/-- `MemRead(b, off, n)`: defined only when `off + n` is at most the capacity (00_scope.md R16). -/
def memRead (b : Buf) (off n : Nat) (s : State) : Option Bytes :=
  if off + n ≤ capacity s.params b then some ((s.mem b).readBytes off n) else none

/-- `MemWrite(b, off, len(v), v)`: defined only when `off + len(v)` is at most the capacity (00_scope.md R16). -/
def memWrite (b : Buf) (off : Nat) (v : Bytes) (s : State) : Option State :=
  if off + v.length ≤ capacity s.params b then some (s.setMem b ((s.mem b).writeBytes off v)) else none

/-- Go on with the bytes of a `MemRead`; outside the capacity there are none (log 9). -/
def withRead (b : Buf) (off n : Nat) (s : State) (k : Bytes → Result) : Result :=
  match memRead b off n s with
  | some v => k v
  | none => .fault (.outsideBuffer b)

/-- Go on after a `MemWrite`; outside the capacity there is none (log 9). -/
def withWrite (b : Buf) (off : Nat) (v : Bytes) (s : State) (k : State → Result) : Result :=
  match memWrite b off v s with
  | some t => k t
  | none => .fault (.outsideBuffer b)

/-! Ending a command. -/

/-- Taking an error, the one thing the block has for an exception: "`STATUS <- code(E)` and no other state changes"
(00_scope.md R16, 60_exceptions.md R231, R232). There is nothing to return from (R234). -/
def raise (e : CmdError) (s : State) : Result := .next (s.setStatus e.code)

/-- Ending with success: `STATUS <- 0` (10_state.md R32). -/
def succeed (s : State) : Result := .next (s.setStatus okCode)

end Sys2Proof.Machine
end

