-- ==== Sys2Proof/Machine/Operands.lean ====
section
/-! DEFINITION. The operand forms: the byte-order functions of 00_scope.md R13 and R14, slices (R11), the staged
coordinate record (10_state.md R28) and the nonce register (R29). -/

namespace Sys2Proof.Machine

/-- `u32_of_i32` (00_scope.md R13). -/
def u32OfI32 (v : Int) : Nat := if 0 ≤ v then v.toNat else (v + 2 ^ 32).toNat

/-- `i32_of_u32` (00_scope.md R13). -/
def i32OfU32 (u : Nat) : Int := if u < 2 ^ 31 then (u : Int) else (u : Int) - 2 ^ 32

/-- The 32-bit field that holds the signed number `v` (10_state.md R28, 30_encoding.md R86). A number outside `i32`, which
no rule gives a field, gives its residue modulo 2^32, and 0 below -2^32 (DESIGN CHOICE, log 18). -/
def wordOfI32 (v : Int) : Word := BitVec.ofNat 32 (u32OfI32 v)

/-- The signed number a 32-bit field holds. -/
def i32OfWord (w : Word) : Int := i32OfU32 w.toNat

/-- Bits `8k+7` to `8k` of a word (00_scope.md R12). -/
def byteOf {w : Nat} (k : Nat) (v : BitVec w) : Byte := v.extractLsb' (8 * k) 8

/-- `le32`: least significant byte first (00_scope.md R14). -/
def le32 (u : Word) : Bytes := [byteOf 0 u, byteOf 1 u, byteOf 2 u, byteOf 3 u]

/-- Byte `i` of a string, for the fixed offsets of the formats; past its end 0x00 (DESIGN CHOICE, log 19). -/
def byteAt (b : Bytes) (i : Nat) : Byte := b.getD i 0x00#8

/-- `from_le32` of a 4-byte string (00_scope.md R14); of another length see `byteAt` (log 19). -/
def fromLe32 (b : Bytes) : Word :=
  BitVec.ofNat 32 ((byteAt b 0).toNat + 256 * (byteAt b 1).toNat + 65536 * (byteAt b 2).toNat
    + 16777216 * (byteAt b 3).toNat)

/-- `be64`: most significant byte first (00_scope.md R14). -/
def be64 (u : DWord) : Bytes :=
  [byteOf 7 u, byteOf 6 u, byteOf 5 u, byteOf 4 u, byteOf 3 u, byteOf 2 u, byteOf 1 u, byteOf 0 u]

/-- A byte string read as a number, most significant byte first (00_scope.md R14: the inverse of `be64`). -/
def natOfBe (b : Bytes) : Nat := b.foldl (fun acc x => 256 * acc + x.toNat) 0

/-- `from_be64` (00_scope.md R14). -/
def fromBe64 (b : Bytes) : DWord := BitVec.ofNat 64 (natOfBe b)

/-- The slice `b[i..j)` (00_scope.md R11). -/
def slice (b : Bytes) (i j : Nat) : Bytes := (b.drop i).take (j - i)

/-- A coordinate record: `{ lat_deg_e7: i32, lon_deg_e7: i32, alt_mm: optional i32 }`, each field as its 32 bits
(30_encoding.md R81, R86). -/
structure Coord where
  lat : Word
  lon : Word
  alt : Option Word
deriving DecidableEq, Repr

/-- The staged record `(LAT, LON, if AF = 1 then ALT else absent)` (10_state.md R28, 30_encoding.md R81). -/
def stagedCoord (s : State) : Coord :=
  { lat := s.lat, lon := s.lon, alt := bif s.af then some s.alt else none }

/-- Write a record to the staging registers; an absent altitude leaves `AF = 0` and `ALT = 0` (40_coordinate_codec.md
R118, D27). -/
def putCoord (c : Coord) (s : State) : State :=
  (((s.setLat c.lat).setLon c.lon).setAf c.alt.isSome).setAlt (c.alt.getD 0#32)

/-- The nonce register holding the first 12 bytes of a string (10_state.md R29). -/
def nonceOfBytes (b : Bytes) : Vector Byte 12 := Vector.ofFn fun i => byteAt b i.val

end Sys2Proof.Machine
end

