-- ==== Sys2Proof/Machine/Codec.lean ====
section
/-! DEFINITION. The coordinate codec: `serialize` and `deserialize` (40_coordinate_codec.md section 1), and the commands
`SER` and `DES` (section 2). -/

namespace Sys2Proof.Machine

/-- The length of a serialized record: 13 with altitude, 9 without (40_coordinate_codec.md R110). -/
def serializedLength (c : Coord) : Nat := if c.alt.isSome then 13 else 9

/-- The bytes of a serialized record, `FMT_PT9` or `FMT_PT13` (40_coordinate_codec.md R110, 30_encoding.md R83, R84). -/
def serializedBytes (c : Coord) : Bytes :=
  le32 c.lat ++ le32 c.lon ++ [flagByte c.alt.isSome] ++
    match c.alt with
    | some alt => le32 alt
    | none => []

/-- `serialize(coord, cap)` (40_coordinate_codec.md R110 to R112). -/
def serialize (c : Coord) (cap : Nat) : Except CmdError Bytes :=
  if cap < serializedLength c then .error .bufferTooSmall else .ok (serializedBytes c)

/-- `deserialize(b)` (40_coordinate_codec.md R113), with the flag policy of R115; bytes past the record are ignored (R116). -/
def deserialize (policy : FlagPolicy) (b : Bytes) : Except CmdError Coord :=
  if b.length < 9 then .error .malformedPlaintext
  else
    match flagPresent policy (byteAt b 8) with
    | .error e => .error e
    | .ok false => .ok { lat := fromLe32 (slice b 0 4), lon := fromLe32 (slice b 4 8), alt := none }
    | .ok true =>
      if b.length < 13 then .error .malformedPlaintext
      else .ok { lat := fromLe32 (slice b 0 4), lon := fromLe32 (slice b 4 8), alt := some (fromLe32 (slice b 9 13)) }

/-- `SER`: serialize the staged record into `D` (40_coordinate_codec.md R117). -/
def execSer (s : State) : Result :=
  match serialize (stagedCoord s) (capacity s.params .d) with
  | .error e => raise e s
  | .ok v => withWrite .d 0 v s fun t => succeed (t.setDlen (BitVec.ofNat 8 v.length))

/-- `DES`: deserialize `D` into the staged record (40_coordinate_codec.md R118). -/
def execDes (s : State) : Result :=
  withRead .d 0 s.dlen.toNat s fun b =>
    match deserialize s.params.flagPolicy b with
    | .error e => raise e s
    | .ok c => succeed (putCoord c s)

end Sys2Proof.Machine
end

