-- ==== Sys2Proof/Machine/Framer.lean ====
section
/-! DEFINITION. The packet framer: `build_packet` and `parse_packet` (44_packet_framer.md section 1), and the commands
`BUILD` and `PARSE` (section 2). -/

namespace Sys2Proof.Machine

/-- `NONCE_LEN` (00_scope.md R6). -/
def nonceLen : Nat := 12

/-- `MIN_PKT`, the least length parse_packet accepts (00_scope.md R6; 90_conflicts.md C1). -/
def minPkt : Nat := 20

/-- `build_packet(nonce, ciphertext, cap)`: the packet and its length (44_packet_framer.md R190). -/
def buildPacket (nonce ciphertext : Bytes) (cap : Nat) : Except CmdError (Bytes × Nat) :=
  if cap < nonce.length + ciphertext.length then .error .bufferTooSmall
  else .ok (nonce ++ ciphertext, nonce.length + ciphertext.length)

/-- `parse_packet(raw)`: the nonce and the ciphertext (44_packet_framer.md R192). -/
def parsePacket (raw : Bytes) : Except CmdError (Bytes × Bytes) :=
  if raw.length < minPkt then .error .packetTooShort
  else .ok (slice raw 0 nonceLen, slice raw nonceLen raw.length)

/-- `BUILD`: frame `N` and `D` into `P` (44_packet_framer.md R195). -/
def execBuild (s : State) : Result :=
  withRead .d 0 s.dlen.toNat s fun data =>
    match buildPacket s.n.toList data (capacity s.params .p) with
    | .error e => raise e s
    | .ok (packet, len) => withWrite .p 0 packet s fun t => succeed (t.setPlen (BitVec.ofNat 8 len))

/-- `PARSE`: split `P` into `N` and `D`; the second check is the command level's own (44_packet_framer.md R196, D22). -/
def execParse (s : State) : Result :=
  withRead .p 0 s.plen.toNat s fun raw =>
    match parsePacket raw with
    | .error e => raise e s
    | .ok (nonce, ciphertext) =>
      if capacity s.params .d < ciphertext.length then raise .bufferTooSmall s
      else
        withWrite .d 0 ciphertext s fun t =>
          succeed ((t.setN (nonceOfBytes nonce)).setDlen (BitVec.ofNat 8 ciphertext.length))

end Sys2Proof.Machine
end

