-- ==== Sys2Proof/Machine/Sequencer.lean ====
section
/-! DEFINITION. The nonce sequencer: `next_nonce` (43_nonce_sequencer.md section 1) and the command `NEXTN` (section 2). -/

namespace Sys2Proof.Machine

/-- `next_nonce()`: the nonce built from the counter before the increment, and the counter after it
(43_nonce_sequencer.md R175, R178; 30_encoding.md R82). -/
def nextNonce (devid : Bytes) (ctr : DWord) : Bytes × DWord := (devid ++ be64 ctr, ctr + 1#64)

/-- `NEXTN`: emit the next nonce into `N` (43_nonce_sequencer.md R180). -/
def execNextn (s : State) : Result :=
  let r := nextNonce s.devid.toList s.ctr
  succeed ((s.setN (nonceOfBytes r.1)).setCtr r.2)

end Sys2Proof.Machine
end

