-- ==== Sys2Proof/Machine/Keystream.lean ====
section
/-! DEFINITION. The keystream generator (41_keystream_generator.md): the default block function ChaCha20 (R135 to R140,
from general knowledge, log 11), the parameter `KSBlock` in general (R131, R144, log 10) and the keystream (R130, R131). -/

namespace Sys2Proof.Machine

/-- `rotl32(a, n)`: rotation left (00_scope.md R15). -/
def rotl32 (a : Word) (n : Nat) : Word := (a <<< n) ||| (a >>> (32 - n))

/-- The quarter round on four words (41_keystream_generator.md R137). -/
def quarterRound (a b c d : Word) : Word × Word × Word × Word :=
  let a := a + b
  let d := rotl32 (d ^^^ a) 16
  let c := c + d
  let b := rotl32 (b ^^^ c) 12
  let a := a + b
  let d := rotl32 (d ^^^ a) 8
  let c := c + d
  let b := rotl32 (b ^^^ c) 7
  (a, b, c, d)

/-- `QR(a, b, c, d)` on four indices of the sixteen words (41_keystream_generator.md R135, R137). -/
def quarterRoundAt (i j k l : Fin 16) (v : Vector Word 16) : Vector Word 16 :=
  let q := quarterRound v[i] v[j] v[k] v[l]
  (((v.set i q.1).set j q.2.1).set k q.2.2.1).set l q.2.2.2

/-- The four columns (41_keystream_generator.md R138). -/
def columnRound (v : Vector Word 16) : Vector Word 16 :=
  quarterRoundAt 3 7 11 15 (quarterRoundAt 2 6 10 14 (quarterRoundAt 1 5 9 13 (quarterRoundAt 0 4 8 12 v)))

/-- The four diagonals (41_keystream_generator.md R138). -/
def diagonalRound (v : Vector Word 16) : Vector Word 16 :=
  quarterRoundAt 3 4 9 14 (quarterRoundAt 2 7 8 13 (quarterRoundAt 1 6 11 12 (quarterRoundAt 0 5 10 15 v)))

/-- `n` double rounds (41_keystream_generator.md R138). -/
def doubleRounds : Nat → Vector Word 16 → Vector Word 16
  | 0, v => v
  | n + 1, v => doubleRounds n (diagonalRound (columnRound v))

/-- The initial state for a key, a nonce and a block counter (41_keystream_generator.md R136, which has 32 and 12 bytes:
missing bytes read as 0 and surplus bytes are ignored, DESIGN CHOICE, log 19). -/
def chachaInit (key nonce : Bytes) (j : Word) : Vector Word 16 :=
  #v[0x61707865#32, 0x3320646e#32, 0x79622d32#32, 0x6b206574#32,
     fromLe32 (slice key 0 4), fromLe32 (slice key 4 8), fromLe32 (slice key 8 12), fromLe32 (slice key 12 16),
     fromLe32 (slice key 16 20), fromLe32 (slice key 20 24), fromLe32 (slice key 24 28), fromLe32 (slice key 28 32),
     j, fromLe32 (slice nonce 0 4), fromLe32 (slice nonce 4 8), fromLe32 (slice nonce 8 12)]

/-- The sixteen output words: ten double rounds, then the initial state added (41_keystream_generator.md R139). -/
def chachaWords (key nonce : Bytes) (j : Word) : Vector Word 16 :=
  Vector.zipWith (fun x y => x + y) (doubleRounds 10 (chachaInit key nonce j)) (chachaInit key nonce j)

/-- The 64 output bytes: each word least significant byte first (41_keystream_generator.md R140). -/
def chachaBlock (key nonce : Bytes) (j : Word) : Bytes :=
  (chachaWords key nonce j).toList.flatMap le32

/-- `KS_BLOCK_LEN` (00_scope.md R6, 41_keystream_generator.md R139; log 10 for another instance). -/
def ksBlockLen : KsChoice → Nat
  | .chacha20 => 64
  | .other inst => inst.blockLenPred + 1

/-- `KS_CTR_BITS` (00_scope.md R6, 41_keystream_generator.md R139; log 10 for another instance). -/
def ksCtrBits : KsChoice → Nat
  | .chacha20 => 32
  | .other inst => inst.ctrBits

/-- `KSBlock(key, nonce, j)`, a string of `KS_BLOCK_LEN` bytes (41_keystream_generator.md R131). R131 gives it for 32-byte
keys, 12-byte nonces and `j < 2^KS_CTR_BITS` only. Outside that the default takes `j` modulo 2^32, so its blocks repeat, and
any other instance has bytes nothing is known of (DESIGN CHOICE, log 19); `apply` asks for no block there. -/
def ksBlock (ks : KsChoice) (key nonce : Bytes) (j : Nat) : Bytes :=
  match ks with
  | .chacha20 => chachaBlock key nonce (BitVec.ofNat 32 j)
  | .other inst => (List.range (ksBlockLen (.other inst))).map fun off => Config.otherKsByte inst.id key nonce j off

/-- `KSInitOK(key, nonce)`: constantly true for the default (41_keystream_generator.md R144), for arguments of any length
(R144 has 32 and 12 bytes; log 19). -/
def ksInitOk (ks : KsChoice) (key nonce : Bytes) : Bool :=
  match ks with
  | .chacha20 => true
  | .other inst => !inst.refuses.contains (key, nonce)

/-- How many bytes one call can draw: `KS_BLOCK_LEN` for each value of the block counter (41_keystream_generator.md R143). -/
def ksRoom (ks : KsChoice) : Nat := ksBlockLen ks * 2 ^ ksCtrBits ks

/-- `KS(key, nonce, n)`: the blocks for `j = 0, 1, 2, ...` laid end to end, the first `n` bytes
(41_keystream_generator.md R131). It is total like `ksBlock`: outside R131's range see there (log 19). -/
def keystream (ks : KsChoice) (key nonce : Bytes) (n : Nat) : Bytes :=
  ((List.range ((n + ksBlockLen ks - 1) / ksBlockLen ks)).flatMap (ksBlock ks key nonce)).take n

end Sys2Proof.Machine
end

