-- ==== Sys2Proof/Machine/Xor.lean ====
section
/-! DEFINITION. The XOR datapath: `apply` (42_xor_datapath.md section 1) and the command `APPLY` (section 2). -/

namespace Sys2Proof.Machine

/-- Byte-wise exclusive or of byte strings (00_scope.md R15). -/
def xorBytes (a b : Bytes) : Bytes := List.zipWith (fun x y => x ^^^ y) a b

/-- `apply(key, nonce, data)` (42_xor_datapath.md R160, R164). `none`: the data is longer than the block counter can
serve, and apply "has no meaning in this spec" (41_keystream_generator.md R143). -/
def apply (ks : KsChoice) (key nonce data : Bytes) : Option (Except CmdError Bytes) :=
  if key.length ≠ 32 then some (.error .invalidKey)
  else if nonce.length ≠ 12 then some (.error .invalidNonce)
  else if ksInitOk ks key nonce = false then some (.error .cipherError)
  else if ksRoom ks < data.length then none
  else some (.ok (xorBytes data (keystream ks key nonce data.length)))

/-- `APPLY`: XOR the keystream for (`KEY`, `N`) into `D` in place (42_xor_datapath.md R166). -/
def execApply (s : State) : Result :=
  withRead .d 0 s.dlen.toNat s fun data =>
    match apply s.params.ks s.key.toList s.n.toList data with
    | none => .refused .keystreamExhausted
    | some (.error e) => raise e s
    | some (.ok r) => withWrite .d 0 r s succeed

end Sys2Proof.Machine
end

