-- ==== Sys2Proof/Machine/HostActions.lean ====
section
/-! DEFINITION. What each host action does (10_state.md R36), reset (R33, 70_reset_and_hazards.md R265), and running a
sequence that stops at the first failure (45_pipelines.md R212). -/

namespace Sys2Proof.Machine

/-- Issuing a command code: decode it and run the command to its end (30_encoding.md R95); an unassigned code is
`IllegalCommand` (R96). -/
def issue (code : Byte) (s : State) : Result :=
  match decodeCode code with
  | .ok i => exec i s
  | .error _ => raise .illegalCommand s

/-- The value a register read returns (10_state.md R36). -/
def readReg (r : Reg) (s : State) : Reply :=
  match r with
  | .ctr => .dword s.ctr
  | .lat => .word s.lat
  | .lon => .word s.lon
  | .af => .bit s.af
  | .alt => .word s.alt
  | .n => .nonce s.n
  | .dlen => .byte s.dlen
  | .plen => .byte s.plen
  | .status => .byte s.status

/-- Host read of one byte of a buffer, stale bytes included (10_state.md R36). -/
def hostReadByte (b : Buf) (i : Nat) (s : State) : Result :=
  if i < capacity s.params b then .next (s.addReply (.byte ((s.mem b).read i))) else .fault (.outsideBuffer b)

/-- Host write of one byte of a buffer (10_state.md R36). -/
def hostWriteByte (b : Buf) (i : Nat) (v : Byte) (s : State) : Result :=
  if i < capacity s.params b then .next (s.setMem b ((s.mem b).write i v)) else .fault (.outsideBuffer b)

/-- Host write of one byte of `N` (10_state.md R29, R36). -/
def hostWriteN (i : Nat) (v : Byte) (s : State) : Result :=
  if h : i < 12 then .next (s.setN (s.n.set i v h)) else .fault .outsideNonce

/-- Host write of a length: above the capacity it is "refused: nothing changes" (10_state.md R31, R36). -/
def hostWriteLength (b : Buf) (v : Nat) (s : State) : Result :=
  if v ≤ capacity s.params b then
    match b with
    | .d => .next (s.setDlen (BitVec.ofNat 8 v))
    | .p => .next (s.setPlen (BitVec.ofNat 8 v))
  else .next s

/-- What a reset leaves unspecified (10_state.md R33): the record registers, `N`, and the bytes of the two buffers from
offset 0 on. -/
structure Unspecified where
  lat : Word
  lon : Word
  af : Bool
  alt : Word
  n : Vector Byte 12
  d : Bytes
  p : Bytes
deriving DecidableEq, Repr

/-- The state after a reset that leaves `u` in the unspecified places (10_state.md R33): "`CTR = 0`, `STATUS = 0`,
`DLEN = PLEN = 0`, constants as configured" (70_reset_and_hazards.md R265). -/
def State.afterReset (u : Unspecified) (s : State) : State :=
  { s with
    ctr := 0#64
    lat := u.lat
    lon := u.lon
    af := u.af
    alt := u.alt
    n := u.n
    d := Memory.writeBytes [] 0 (u.d.take (capacity s.params .d))
    dlen := 0#8
    p := Memory.writeBytes [] 0 (u.p.take (capacity s.params .p))
    plen := 0#8
    status := 0#8 }

/-- The free contents that reset action number `k` leaves (log 5). -/
def freeContents (prm : Params) (k : Nat) : Unspecified where
  lat := Config.freeLat k
  lon := Config.freeLon k
  af := Config.freeAf k
  alt := Config.freeAlt k
  n := Vector.ofFn fun i => Config.freeN k i.val
  d := (List.range (capacity prm .d)).map fun i => Config.freeD k i
  p := (List.range (capacity prm .p)).map fun i => Config.freeP k i

/-- The reset action: every unspecified bit is a free value, new at each reset (10_state.md R33, log 5). -/
def hostReset (s : State) : Result :=
  .next ((s.afterReset (freeContents s.params s.draws)).setDraws (s.draws + 1))

/-- One host action (10_state.md R36). -/
def perform (a : HostAction) (s : State) : Result :=
  match a with
  | .readReg r => .next (s.addReply (readReg r s))
  | .readByte b i => hostReadByte b i s
  | .writeLat v => .next (s.setLat v)
  | .writeLon v => .next (s.setLon v)
  | .writeAlt v => .next (s.setAlt v)
  | .writeAf v => .next (s.setAf v)
  | .writeN i v => hostWriteN i v s
  | .writeByte b i v => hostWriteByte b i v s
  | .writeDlen v => hostWriteLength .d v s
  | .writePlen v => hostWriteLength .p v s
  | .issue code => issue code s
  | .reset => hostReset s

/-- The action issues a command code. -/
def HostAction.isIssue : HostAction → Bool
  | .issue _ => true
  | _ => false

/-- After an action of a stop-at-first-failure sequence: the rest goes back to the front of the host's list, unless the
action was a command that ended with `STATUS` not 0 or nothing is left (45_pipelines.md R212). -/
def continueWhileOk (a : HostAction) (rest : List HostAction) (s : State) : State :=
  if a.isIssue && decide (s.status ≠ okCode) then s
  else if rest.isEmpty then s
  else s.setPending (.whileOk rest :: s.pending)

/-- One step of a port item: an action, or the first action of a sequence. -/
def performItem (item : PortItem) (s : State) : Result :=
  match item with
  | .act a => perform a s
  | .whileOk [] => .next s
  | .whileOk (a :: rest) =>
    match perform a s with
    | .next t => .next (continueWhileOk a rest t)
    | .fault f => .fault f
    | .refused r => .refused r

end Sys2Proof.Machine
end

