-- ==== Sys2Proof/Machine/Step.lean ====
section
/-! DEFINITION. One step: the first item of the host's list is performed (45_pipelines.md R214). There is no program
counter and no fetch (10_state.md R21). -/

namespace Sys2Proof.Machine

/-- One step. With nothing asked for, the block stays as it is (log 6). -/
def step (s : State) : Host.Outcome State Fault Refusal :=
  match s.pending with
  | [] => .next s
  | item :: rest => performItem item (s.setPending rest)

/-- `s` with the issue of the command whose bits are `w` placed first in the host's list, where the next step takes it. -/
def State.withFetchWord (s : State) (nbits w : Nat) : State :=
  s.setPending ((tableBytes nbits w).map (fun code => .act (.issue code)) ++ s.pending)

end Sys2Proof.Machine
end

