-- ==== Sys2Proof/WellFormed.lean ====
section
/-! DEFINITION. Which terms exist. A command has no operand, so every command is well formed (30_encoding.md R93). A host
action exists when its index is inside the buffer: "An access to an index outside a buffer's capacity does not exist as
an action" (10_state.md R36). -/

namespace Sys2Proof

/-- Every command is well formed: "there are no operand fields" (30_encoding.md R93). -/
def Instr.wellFormed : Instr → Bool
  | .ser => true
  | .des => true
  | .apply => true
  | .nextn => true
  | .build => true
  | .parse => true

namespace Machine

/-- The action is one of the list of 10_state.md R36. -/
def HostAction.wellFormed (prm : Params) : HostAction → Bool
  | .readReg _ => true
  | .readByte b i => decide (i < capacity prm b)
  | .writeLat _ => true
  | .writeLon _ => true
  | .writeAlt _ => true
  | .writeAf _ => true
  | .writeN i _ => decide (i < 12)
  | .writeByte b i _ => decide (i < capacity prm b)
  | .writeDlen _ => true
  | .writePlen _ => true
  | .issue _ => true
  | .reset => true

/-- Every action of the item exists. -/
def PortItem.wellFormed (prm : Params) : PortItem → Bool
  | .act a => a.wellFormed prm
  | .whileOk as => as.all (HostAction.wellFormed prm)

end Machine

end Sys2Proof
end

