-- ==== Sys2Proof/Laws/PerInstr.lean ====
section
/-! SUPPORT. The family CodeRoundTrip: the decoder reads back the code of every command and leaves the rest of the byte
string (30_encoding.md R93, R94). -/

namespace Sys2Proof.Laws.CodeRoundTrip

/-- A well-formed command's code, followed by any bytes, decodes to the command and these bytes. -/
def Statement (i : Instr) : Prop :=
  i.wellFormed = true → ∀ rest : Bytes, decode (encode i ++ rest) = .ok (i, rest)

theorem ser : Statement .ser := fun _ _ => rfl
theorem des : Statement .des := fun _ _ => rfl
theorem apply : Statement .apply := fun _ _ => rfl
theorem nextn : Statement .nextn := fun _ _ => rfl
theorem build : Statement .build := fun _ _ => rfl
theorem parse : Statement .parse := fun _ _ => rfl

end Sys2Proof.Laws.CodeRoundTrip
end

