-- ==== Sys2Proof/Machine/Pipeline.lean ====
section
/-! DEFINITION. The sender and receiver pipelines: the functions `encrypt` and `decrypt` (45_pipelines.md R206), and the
pseudo-commands as sequences of the port (30_encoding.md R100, 45_pipelines.md R207 to R209). -/

namespace Sys2Proof.Machine

/-- `encrypt(coord, key, nonce)`: apply after serialize with capacity 13 (45_pipelines.md R206). -/
def encryptFn (ks : KsChoice) (c : Coord) (key nonce : Bytes) : Option (Except CmdError Bytes) :=
  match serialize c 13 with
  | .error e => some (.error e)
  | .ok pt => apply ks key nonce pt

/-- `decrypt(ct, key, nonce)`: deserialize after apply (45_pipelines.md R206). -/
def decryptFn (ks : KsChoice) (policy : FlagPolicy) (ct key nonce : Bytes) : Option (Except CmdError Coord) :=
  match apply ks key nonce ct with
  | none => none
  | some (.error e) => some (.error e)
  | some (.ok pt) => some (deserialize policy pt)

/-- Host writes of a byte string to `N`, byte 0 first (30_encoding.md R99, `wr N`). -/
def writeNActions (i : Nat) : Bytes → List HostAction
  | [] => []
  | b :: rest => .writeN i b :: writeNActions (i + 1) rest

/-- `ENCRYPT`: the command codes 01 04 03 05, stopping at the first failure (45_pipelines.md R207). -/
def encryptItem : PortItem := .whileOk [.issue 0x01#8, .issue 0x04#8, .issue 0x03#8, .issue 0x05#8]

/-- `ENCRYPT` with a supplied nonce: `SER`, the host's write of `N`, `APPLY`, `BUILD` (45_pipelines.md R208). -/
def encryptSuppliedItem (nonce : Bytes) : PortItem :=
  .whileOk (.issue 0x01#8 :: writeNActions 0 nonce ++ [.issue 0x03#8, .issue 0x05#8])

/-- `DECRYPT`: the command codes 06 03 02, stopping at the first failure (45_pipelines.md R209). -/
def decryptItem : PortItem := .whileOk [.issue 0x06#8, .issue 0x03#8, .issue 0x02#8]

end Sys2Proof.Machine
end

