-- ==== Sys2Proof/Machine/Program.lean ====
section
/-! DEFINITION. Programs (30_encoding.md R99): a program is a list of lines, and each line is a list of port items. -/

namespace Sys2Proof.Machine

/-- One line of a program (30_encoding.md R99). Values of registers are numbers, as the syntax writes them. -/
inductive Line where
  /-- A mnemonic alone. -/
  | op (i : Instr)
  /-- `cmd 0xNN`. -/
  | cmd (code : Byte)
  /-- `ENCRYPT`. -/
  | encrypt
  /-- `DECRYPT`. -/
  | decrypt
  /-- `wr LAT, v`; a `v` outside `i32` is taken as `wordOfI32` takes it (DESIGN CHOICE, log 18). -/
  | wrLat (v : Int)
  /-- `wr LON, v`; outside `i32` as for `LAT` (DESIGN CHOICE, log 18). -/
  | wrLon (v : Int)
  /-- `wr ALT, v`; outside `i32` as for `LAT` (DESIGN CHOICE, log 18). -/
  | wrAlt (v : Int)
  /-- `wr AF, v`. -/
  | wrAf (v : Bool)
  /-- `wr DLEN, v`. -/
  | wrDlen (v : Nat)
  /-- `wr PLEN, v`. -/
  | wrPlen (v : Nat)
  /-- `wr N, b0 b1 ... b11`; fewer bytes write only these (DESIGN CHOICE, log 18). -/
  | wrN (bs : Bytes)
  /-- `wr D, b0 b1 ...` or `wr P, b0 b1 ...`: from offset 0 upward; the length register stays. -/
  | wrBuf (b : Buf) (bs : Bytes)
  /-- `rd NAME` of a register. -/
  | rd (r : Reg)
  /-- `rd D` or `rd P`: the first `n` bytes, one read each (20_memory.md R53; log 14). -/
  | rdBuf (b : Buf) (n : Nat)
  /-- `reset`. -/
  | reset
deriving DecidableEq, Repr

/-- Host writes of a byte string to a buffer, byte 0 at offset `i`. -/
def writeBufActions (b : Buf) (i : Nat) : Bytes → List HostAction
  | [] => []
  | v :: rest => .writeByte b i v :: writeBufActions b (i + 1) rest

/-- The port items of a line (30_encoding.md R99, R100). -/
def Line.items : Line → List PortItem
  | .op i => [.act (.issue (encodeCode i))]
  | .cmd code => [.act (.issue code)]
  | .encrypt => [encryptItem]
  | .decrypt => [decryptItem]
  | .wrLat v => [.act (.writeLat (wordOfI32 v))]
  | .wrLon v => [.act (.writeLon (wordOfI32 v))]
  | .wrAlt v => [.act (.writeAlt (wordOfI32 v))]
  | .wrAf v => [.act (.writeAf v)]
  | .wrDlen v => [.act (.writeDlen v)]
  | .wrPlen v => [.act (.writePlen v)]
  | .wrN bs => (writeNActions 0 bs).map .act
  | .wrBuf b bs => (writeBufActions b 0 bs).map .act
  | .rd r => [.act (.readReg r)]
  | .rdBuf b n => (List.range n).map fun i => .act (.readByte b i)
  | .reset => [.act .reset]

/-- The port items of a program, its lines top to bottom (30_encoding.md R99). -/
def programItems (lines : List Line) : List PortItem := lines.flatMap Line.items

end Sys2Proof.Machine
end

