-- ==== Sys2Proof/Safety.lean ====
section
/-! DEFINITION. What counts as a sound state and a sound run, in the terms the statements use. -/

namespace Sys2Proof.Machine

/-- The invariant of 10_state.md R31 (the lengths keep within the capacities), with what the model adds to its data: both
buffers in canonical form and inside their capacities, and `STATUS` one of the codes of 60_exceptions.md R226. -/
structure State.Inv (s : State) : Prop where
  dlen_le : s.dlen.toNat ≤ capacity s.params .d
  plen_le : s.plen.toNat ≤ capacity s.params .p
  d_wf : s.d.wf = true
  p_wf : s.p.wf = true
  d_within : s.d.within (capacity s.params .d) = true
  p_within : s.p.within (capacity s.params .p) = true
  status_le : s.status.toNat ≤ 7

/-- Every item the host has asked for exists (10_state.md R36). -/
def State.hostWellFormed (s : State) : Bool := s.pending.all (PortItem.wellFormed s.params)

/-- The keystream function accepts the key and the nonce in hand, and can serve `DLEN` bytes: always so under the default
(41_keystream_generator.md R143, R144). -/
def State.cipherReady (s : State) : Prop :=
  ksInitOk s.params.ks s.key.toList s.n.toList = true ∧ s.dlen.toNat ≤ ksRoom s.params.ks

/-- The host action the next step performs, if there is one. -/
def State.nextAction (s : State) : Option HostAction :=
  match s.pending with
  | .act a :: _ => some a
  | .whileOk (a :: _) :: _ => some a
  | _ => none

/-- The same machine built with another `KEY` (10_state.md R24: a constant no step can write). -/
def State.withKey (k : Vector Byte 32) (s : State) : State := { s with key := k }

/-- The same machine built with another `DEVID` (10_state.md R26). -/
def State.withDevid (v : Vector Byte 4) (s : State) : State := { s with devid := v }

/-- The commands of a list, run one after the other whatever their `STATUS`. -/
def execAll : List Instr → State → Result
  | [], s => .next s
  | i :: rest, s =>
    match exec i s with
    | .next t => execAll rest t
    | .fault f => .fault f
    | .refused r => .refused r

/-- `k` steps of the machine, to the first stop. -/
def runSteps (k : Nat) (s : State) : Result :=
  match k with
  | 0 => .next s
  | k + 1 =>
    match step s with
    | .next t => runSteps k t
    | .fault f => .fault f
    | .refused r => .refused r

end Sys2Proof.Machine
end

