-- ==== Sys2Proof/Certificates/Slice0/Obligations.lean ====
section
/-! DEFINITION. The statements for the provers, one definition each, in the order of the spec's files. Where a title says
"the model's choice" the docstring names the log entry. -/

open Sys2Proof Sys2Proof.Machine

/-! ## Command codes and the port -/

/-- 30_encoding.md R93, R94: decode and encode agree for every command, whatever bytes follow, in both directions: a code
decodes to a command exactly when it is the code the table gives that command. -/
def Obligations.DecodeEncodeAgree : Prop :=
  (∀ i : Instr, Sys2Proof.Laws.CodeRoundTrip.Statement i) ∧
  (∀ (code : Byte) (i : Instr), decodeCode code = .ok i ↔ code = encodeCode i) ∧
  (∀ (b : Byte) (bs rest : Bytes) (i : Instr), decode (b :: bs) = .ok (i, rest) → encode i = [b] ∧ rest = bs)

/-- 30_encoding.md R93, R94 over whole strings of codes: a string decodes to a list of commands exactly when it is their
codes one after the other. So every list of well-formed commands is read back from its encoding, no two strings stand for one
list, and a string with an unassigned code in it stands for none. -/
def Obligations.CommandStringsDecodeUniquely : Prop :=
  (∀ is : List Instr, (∀ i ∈ is, i.wellFormed = true) → decodeAll (is.flatMap encode) = .ok is) ∧
  (∀ (bs : Bytes) (is : List Instr), decodeAll bs = .ok is → bs = is.flatMap encode ∧ is.length = bs.length) ∧
  (∀ (bs : Bytes) (code : Byte), code ∈ bs → (code = 0x00#8 ∨ 0x07 ≤ code.toNat) → ∃ e, decodeAll bs = .error e)

/-- Words written out from the table of 30_encoding.md R94 decode to the commands they stand for. -/
def Obligations.WrittenOutWordsDecode : Prop :=
  decodeTableWord 8 0b00000001 = some .ser ∧ decodeTableWord 8 0b00000010 = some .des ∧
  decodeTableWord 8 0b00000011 = some .apply ∧ decodeTableWord 8 0b00000100 = some .nextn ∧
  decodeTableWord 8 0b00000101 = some .build ∧ decodeTableWord 8 0b00000110 = some .parse ∧
  decodeTableWord 8 0b00000000 = none ∧ decodeTableWord 8 0b00000111 = none ∧ decodeTableWord 8 0b10000001 = none

/-- 30_encoding.md R95: a step whose first item issues the code of a command is that command's meaning, on the state with
the item taken off; inside a sequence the rest of the sequence is put back exactly when the command ended with `STATUS` 0
and something is left (45_pipelines.md R212). That the host's actions are a list in the state is the model's (log 6). -/
def Obligations.StepRunsTheDecodedCommand : Prop :=
  (∀ (s : State) (code : Byte) (i : Instr) (rest : List PortItem),
    s.pending = .act (.issue code) :: rest → decodeCode code = .ok i → step s = exec i (s.setPending rest)) ∧
  (∀ (s t : State) (code : Byte) (i : Instr) (as : List HostAction) (rest : List PortItem),
    s.pending = .whileOk (.issue code :: as) :: rest → decodeCode code = .ok i →
    exec i (s.setPending rest) = .next t →
    step s = .next (if t.status = 0#8 ∧ as ≠ [] then t.setPending (.whileOk as :: t.pending) else t))

/-- The placing of a command where the next step takes it: the very next step is that command's meaning on the state it was
placed in; and with nothing asked for the block stays as it is (both the model's choice, log 6). -/
def Obligations.PlacedCommandRunsNext : Prop :=
  (∀ (s : State) (w : Nat) (i : Instr), decodeTableWord 8 w = some i → step (s.withFetchWord 8 w) = exec i s) ∧
  (∀ s : State, s.pending = [] → step s = .next s)

/-- 30_encoding.md R96: the codes 0x00 and 0x07 to 0xff do nothing except `STATUS <- 7`. -/
def Obligations.UnassignedCodeOnlySetsStatus : Prop :=
  ∀ (s : State) (code : Byte) (rest : List PortItem),
    s.pending = .act (.issue code) :: rest → (code = 0x00#8 ∨ 0x07 ≤ code.toNat) →
    step s = .next ((s.setPending rest).setStatus 7#8)

/-- 30_encoding.md R100: what `ENCRYPT` and `DECRYPT` expand to, and that a sequence stops after the first command whose
`STATUS` is not 0: nothing of it stays queued. -/
def Obligations.PseudoCommandsExpandAndStop : Prop :=
  Line.items .encrypt = [.whileOk ([Instr.ser, .nextn, .apply, .build].map fun i => .issue (encodeCode i))] ∧
  Line.items .decrypt = [.whileOk ([Instr.parse, .apply, .des].map fun i => .issue (encodeCode i))] ∧
  (∀ (s t : State) (code : Byte) (as : List HostAction) (rest : List PortItem),
    s.pending = .whileOk (.issue code :: as) :: rest → step s = .next t → t.status ≠ 0#8 → t.pending = rest)

/-! ## Host actions -/

/-- 10_state.md R36, first two rows: reads return the value and change nothing else, stale bytes included; an index at or
past the capacity is no action (the model's fault, log 9). -/
def Obligations.HostReadsChangeNothing : Prop :=
  ∀ (s : State) (rest : List PortItem),
    (∀ (r : Reg), s.pending = .act (.readReg r) :: rest →
      step s = .next ((s.setPending rest).addReply
        (match r with
          | .ctr => .dword s.ctr
          | .lat => .word s.lat
          | .lon => .word s.lon
          | .af => .bit s.af
          | .alt => .word s.alt
          | .n => .nonce s.n
          | .dlen => .byte s.dlen
          | .plen => .byte s.plen
          | .status => .byte s.status))) ∧
    (∀ i : Nat, s.pending = .act (.readByte .d i) :: rest →
      (i < s.params.dcap.val → step s = .next ((s.setPending rest).addReply (.byte (s.d.read i)))) ∧
      (s.params.dcap.val ≤ i → step s = .fault (.outsideBuffer .d))) ∧
    (∀ i : Nat, s.pending = .act (.readByte .p i) :: rest →
      (i < s.params.pcap.val → step s = .next ((s.setPending rest).addReply (.byte (s.p.read i)))) ∧
      (s.params.pcap.val ≤ i → step s = .fault (.outsideBuffer .p)))

/-- 10_state.md R36: a host write of `LAT`, `LON`, `ALT`, `AF`, or of a byte of `D`, `P` or `N`, sets that register or byte and
nothing else; a write of a length at most the capacity takes, and above the capacity it is "refused: nothing changes". -/
def Obligations.HostWritesTakeTheirValue : Prop :=
  ∀ (s : State) (rest : List PortItem),
    (∀ v, s.pending = .act (.writeLat v) :: rest → step s = .next ((s.setPending rest).setLat v)) ∧
    (∀ v, s.pending = .act (.writeLon v) :: rest → step s = .next ((s.setPending rest).setLon v)) ∧
    (∀ v, s.pending = .act (.writeAlt v) :: rest → step s = .next ((s.setPending rest).setAlt v)) ∧
    (∀ v, s.pending = .act (.writeAf v) :: rest → step s = .next ((s.setPending rest).setAf v)) ∧
    (∀ v, s.pending = .act (.writeDlen v) :: rest →
      (v ≤ s.params.dcap.val → ∃ w : Byte, w.toNat = v ∧ step s = .next ((s.setPending rest).setDlen w)) ∧
      (s.params.dcap.val < v → step s = .next (s.setPending rest))) ∧
    (∀ v, s.pending = .act (.writePlen v) :: rest →
      (v ≤ s.params.pcap.val → ∃ w : Byte, w.toNat = v ∧ step s = .next ((s.setPending rest).setPlen w)) ∧
      (s.params.pcap.val < v → step s = .next (s.setPending rest))) ∧
    (∀ i v, s.pending = .act (.writeByte .d i v) :: rest → s.d.wf = true → i < s.params.dcap.val →
      ∃ m, step s = .next ((s.setPending rest).setD m) ∧ m.wf = true ∧
        ∀ a, m.read a = if a = i then v else s.d.read a) ∧
    (∀ i v, s.pending = .act (.writeByte .p i v) :: rest → s.p.wf = true → i < s.params.pcap.val →
      ∃ m, step s = .next ((s.setPending rest).setP m) ∧ m.wf = true ∧
        ∀ a, m.read a = if a = i then v else s.p.read a) ∧
    (∀ i v, s.pending = .act (.writeN i v) :: rest → i < 12 →
      ∃ w, step s = .next ((s.setPending rest).setN w) ∧
        ∀ (k : Nat) (hk : k < 12), w[k] = if k = i then v else s.n[k])

/-- 10_state.md R36, R23: a host action that is neither a command nor reset leaves `CTR`, `KEY`, `DEVID` and `STATUS` as they
were. -/
def Obligations.HostCannotWriteProtected : Prop :=
  ∀ (s t : State) (a : HostAction), s.nextAction = some a → (∀ code, a ≠ .issue code) → a ≠ .reset →
    step s = .next t → t.ctr = s.ctr ∧ t.key = s.key ∧ t.devid = s.devid ∧ t.status = s.status

/-! ## Reset -/

/-- 70_reset_and_hazards.md R265: reset makes `CTR`, `STATUS`, `DLEN` and `PLEN` 0, keeps the constants, and leaves `u`,
about which nothing is said, in the unspecified places; and the machine the model starts from holds these values, with `KEY`
and `DEVID` at the parameters (10_state.md R33). -/
def Obligations.ResetEffect : Prop :=
  (∀ (s : State) (rest : List PortItem), s.pending = .act .reset :: rest →
    ∃ (u : Unspecified) (t : State), step s = .next t ∧
      t = ((s.setPending rest).afterReset u).setDraws (s.draws + 1) ∧
      t.ctr = 0#64 ∧ t.status = 0#8 ∧ t.dlen = 0#8 ∧ t.plen = 0#8 ∧
      t.key = s.key ∧ t.devid = s.devid ∧ t.params = s.params) ∧
  State.reset.ctr = 0#64 ∧ State.reset.status = 0#8 ∧ State.reset.dlen = 0#8 ∧ State.reset.plen = 0#8 ∧
  (∀ (i : Nat) (h : i < 32), State.reset.key[i] = Config.keyByte i) ∧
  (∀ (i : Nat) (h : i < 4), State.reset.devid[i] = Config.devidByte i)

/-- 10_state.md R31: the invariant holds after reset, whatever the unspecified contents are. -/
def Obligations.ResetHoldsTheInvariant : Prop :=
  State.reset.Inv ∧ ∀ (u : Unspecified) (s : State), (s.afterReset u).Inv

/-- 70_reset_and_hazards.md R267: each command on the state after a reset, whatever the unspecified contents `u` are, and
for every keystream function that accepts the key and the nonce in hand (the default accepts all). -/
def Obligations.CommandsOnTheResetState : Prop :=
  ∀ (u : Unspecified) (s₀ s : State), s = s₀.afterReset u →
    (∃ v, exec .nextn s = .next ((s.setN v).setCtr 1#64) ∧
      (∀ (i : Nat) (h : i < 4), v[i] = s.devid[i]) ∧ ∀ (i : Nat) (h : i < 12), 4 ≤ i → v[i] = 0x00#8) ∧
    (ksInitOk s.params.ks s.key.toList s.n.toList = true → exec .apply s = .next s) ∧
    exec .des s = .next (s.setStatus 2#8) ∧
    exec .parse s = .next (s.setStatus 6#8) ∧
    (12 ≤ s.params.pcap.val → ∃ m, exec .build s = .next ((s.setP m).setPlen 12#8) ∧
      (∀ (i : Nat) (h : i < 12), m.read i = u.n[i]) ∧ ∀ a, 12 ≤ a → m.read a = s.p.read a) ∧
    ((if u.af then 13 else 9) ≤ s.params.dcap.val →
      ∃ m, exec .ser s = .next ((s.setD m).setDlen (if u.af then 13#8 else 9#8)) ∧
        m.readBytes 0 4 = le32 u.lat ∧ m.readBytes 4 4 = le32 u.lon ∧
        m.read 8 = (if u.af then 0x01#8 else 0x00#8) ∧ (u.af = true → m.readBytes 9 4 = le32 u.alt) ∧
        ∀ a, (if u.af then 13 else 9) ≤ a → m.read a = s.d.read a)

/-! ## Fields and formats -/

/-- 00_scope.md R13: `u32_of_i32` and `i32_of_u32`, and that they are inverse bijections between the two ranges. -/
def Obligations.SignedUnsignedBijection : Prop :=
  (∀ v : Int, -2147483648 ≤ v → v ≤ 2147483647 →
    u32OfI32 v < 2 ^ 32 ∧ i32OfU32 (u32OfI32 v) = v ∧
    (0 ≤ v → (u32OfI32 v : Int) = v) ∧ (v < 0 → (u32OfI32 v : Int) = v + 2 ^ 32)) ∧
  (∀ u : Nat, u < 2 ^ 32 →
    -2147483648 ≤ i32OfU32 u ∧ i32OfU32 u ≤ 2147483647 ∧ u32OfI32 (i32OfU32 u) = u ∧
    (u < 2 ^ 31 → i32OfU32 u = u) ∧ (2 ^ 31 ≤ u → i32OfU32 u = u - 2 ^ 32))

/-- 30_encoding.md R87: four bytes assembled least significant first and read as two's complement; every 4-byte string is the
encoding of the field it decodes to, and the decode of the encode of a field is the field. -/
def Obligations.FieldEncodingIsExact : Prop :=
  (∀ b : Bytes, b.length = 4 →
    i32OfWord (fromLe32 b) = i32OfU32 ((byteAt b 0).toNat + 256 * (byteAt b 1).toNat + 65536 * (byteAt b 2).toNat
      + 16777216 * (byteAt b 3).toNat) ∧ le32 (fromLe32 b) = b) ∧
  (∀ v : Int, -2147483648 ≤ v → v ≤ 2147483647 → i32OfWord (fromLe32 (le32 (wordOfI32 v))) = v) ∧
  (∀ w : Word, i32OfWord w = w.toInt)

/-- 30_encoding.md R89, 00_scope.md R14: the counter's eight bytes are the counter as a big-endian number, and two counters
never give the same bytes. -/
def Obligations.CounterEncodingIsBigEndian : Prop :=
  (∀ c : DWord, natOfBe (be64 c) = c.toNat ∧ (be64 c).length = 8 ∧
    ∀ k, k < 8 → (be64 c).getD k 0x00#8 = c.extractLsb' (56 - 8 * k) 8) ∧
  (∀ c e : DWord, be64 c = be64 e → c = e) ∧
  (∀ b : Bytes, b.length = 8 → be64 (fromBe64 b) = b)

/-! ## The codec -/

/-- 40_coordinate_codec.md R117: `SER` whole: what it writes, byte by byte (30_encoding.md R83, R84), when it fails, and
that everything else stays. -/
def Obligations.SerWritesTheRecord : Prop :=
  ∀ s : State, s.d.wf = true →
    (s.params.dcap.val < (if s.af then 13 else 9) → exec .ser s = .next (s.setStatus 1#8)) ∧
    ((if s.af then 13 else 9) ≤ s.params.dcap.val →
      ∃ m, exec .ser s = .next (((s.setD m).setDlen (if s.af then 13#8 else 9#8)).setStatus 0#8) ∧ m.wf = true ∧
        (∀ k, k < 4 → m.read k = s.lat.extractLsb' (8 * k) 8) ∧
        (∀ k, k < 4 → m.read (4 + k) = s.lon.extractLsb' (8 * k) 8) ∧
        m.read 8 = (if s.af then 0x01#8 else 0x00#8) ∧
        (s.af = true → ∀ k, k < 4 → m.read (9 + k) = s.alt.extractLsb' (8 * k) 8) ∧
        (∀ a, (if s.af then 13 else 9) ≤ a → m.read a = s.d.read a))

/-- 10_state.md R28: with `AF = 0` no command reads `ALT`: every command answers alike whatever `ALT` holds, and leaves
`ALT` as it was or writes the same value to it. -/
def Obligations.AltIsNotReadWhileAbsent : Prop :=
  ∀ (i : Instr) (s t : State) (w : Word), s.af = false → exec i s = .next t →
    exec i (s.setAlt w) = .next (t.setAlt w) ∨ exec i (s.setAlt w) = .next t

/-- 40_coordinate_codec.md R118: `DES` whole, with the three flag policies of R115: the record it writes from the bytes of
`D`, when it fails, and that everything else stays. -/
def Obligations.DesReadsTheRecord : Prop :=
  ∀ s : State, s.dlen.toNat ≤ s.params.dcap.val →
    ∀ (lat lon alt : Word),
      lat = s.d.read 3 ++ s.d.read 2 ++ s.d.read 1 ++ s.d.read 0 →
      lon = s.d.read 7 ++ s.d.read 6 ++ s.d.read 5 ++ s.d.read 4 →
      alt = s.d.read 12 ++ s.d.read 11 ++ s.d.read 10 ++ s.d.read 9 →
    ∀ (present : Bool),
      (present = true ↔ s.d.read 8 = 0x01#8 ∨ (2 ≤ (s.d.read 8).toNat ∧ s.params.flagPolicy = .nonzeroPresent)) →
    (s.dlen.toNat < 9 → exec .des s = .next (s.setStatus 2#8)) ∧
    (9 ≤ s.dlen.toNat → 2 ≤ (s.d.read 8).toNat → s.params.flagPolicy = .reject → exec .des s = .next (s.setStatus 2#8)) ∧
    (9 ≤ s.dlen.toNat → ¬ (2 ≤ (s.d.read 8).toNat ∧ s.params.flagPolicy = .reject) → present = false →
      exec .des s = .next (((((s.setLat lat).setLon lon).setAf false).setAlt 0#32).setStatus 0#8)) ∧
    (9 ≤ s.dlen.toNat → s.dlen.toNat < 13 → present = true → exec .des s = .next (s.setStatus 2#8)) ∧
    (13 ≤ s.dlen.toNat → present = true →
      exec .des s = .next (((((s.setLat lat).setLon lon).setAf true).setAlt alt).setStatus 0#8))

/-- 40_coordinate_codec.md R119: the codec's encode and decode agree: deserialize undoes serialize under every policy,
serialize undoes deserialize on the bytes of the record, and serialize is injective. -/
def Obligations.CodecRoundTrip : Prop :=
  (∀ (c : Coord) (cap : Nat) (policy : FlagPolicy), (if c.alt.isSome then 13 else 9) ≤ cap →
    ∃ v, serialize c cap = .ok v ∧ deserialize policy v = .ok c) ∧
  (∀ (b : Bytes) (c : Coord) (policy : FlagPolicy), deserialize policy b = .ok c →
    (byteAt b 8 = 0x00#8 → serialize c 13 = .ok (slice b 0 9)) ∧
    (byteAt b 8 = 0x01#8 → serialize c 13 = .ok (slice b 0 13))) ∧
  (∀ (c c' : Coord) (cap cap' : Nat) (v : Bytes), serialize c cap = .ok v → serialize c' cap' = .ok v → c = c')

/-- 40_coordinate_codec.md R113 to R115: deserialize fails exactly on a string shorter than 9 bytes, on one shorter than 13
whose flag says present, and on a reserved flag under `reject`; its one error is `MalformedPlaintext`. -/
def Obligations.DeserializeFailsExactly : Prop :=
  ∀ (policy : FlagPolicy) (b : Bytes) (e : CmdError),
    deserialize policy b = .error e ↔
      e = .malformedPlaintext ∧
        (b.length < 9 ∨
          (b.length < 13 ∧ (byteAt b 8 = 0x01#8 ∨ (2 ≤ (byteAt b 8).toNat ∧ policy = .nonzeroPresent))) ∨
          (2 ≤ (byteAt b 8).toNat ∧ policy = .reject))

/-- 40_coordinate_codec.md R116: bytes past the record are ignored, and a longer string with flag 0 yields a record without
altitude. -/
def Obligations.SurplusBytesIgnored : Prop :=
  ∀ (policy : FlagPolicy) (b : Bytes),
    (byteAt b 8 = 0x00#8 → 9 ≤ b.length →
      ∃ c, c.alt = none ∧ deserialize policy b = .ok c ∧ deserialize policy (slice b 0 9) = .ok c) ∧
    (byteAt b 8 = 0x01#8 → 13 ≤ b.length →
      ∃ c, c.alt.isSome = true ∧ deserialize policy b = .ok c ∧ deserialize policy (slice b 0 13) = .ok c)

/-! ## The keystream -/

/-- 00_scope.md R15: rotation left as the arithmetic the spec writes. -/
def Obligations.RotationIsTheSpecsArithmetic : Prop :=
  ∀ (a : Word) (n : Nat), 0 < n → n < 32 → (rotl32 a n).toNat = a.toNat * 2 ^ n % 2 ^ 32 + a.toNat / 2 ^ (32 - n)

/-- 41_keystream_generator.md R136: the initial state of the default cipher: four constants, eight key words and three nonce
words read least significant byte first, and the block counter. -/
def Obligations.CipherInitialState : Prop :=
  ∀ (key nonce : Bytes) (j : Word), key.length = 32 → nonce.length = 12 →
    (chachaInit key nonce j)[0] = 0x61707865#32 ∧ (chachaInit key nonce j)[1] = 0x3320646e#32 ∧
    (chachaInit key nonce j)[2] = 0x79622d32#32 ∧ (chachaInit key nonce j)[3] = 0x6b206574#32 ∧
    (chachaInit key nonce j)[12] = j ∧
    (∀ (i k : Nat) (hi : i < 8), k < 4 →
      ((chachaInit key nonce j)[4 + i]).extractLsb' (8 * k) 8 = byteAt key (4 * i + k)) ∧
    (∀ (i k : Nat) (hi : i < 3), k < 4 →
      ((chachaInit key nonce j)[13 + i]).extractLsb' (8 * k) 8 = byteAt nonce (4 * i + k))

/-- 41_keystream_generator.md R140: a block has 64 bytes, and keystream byte `4i + m` of it is bits `8m+7 : 8m` of output
word `i`. The same holds for keys and nonces of other lengths, where what the words are is the model's choice (log 19). -/
def Obligations.BlockByteOrder : Prop :=
  ∀ (key nonce : Bytes) (j : Word), (chachaBlock key nonce j).length = 64 ∧
    ∀ (i m : Nat) (hi : i < 16), m < 4 →
      byteAt (chachaBlock key nonce j) (4 * i + m) = ((chachaWords key nonce j)[i]).extractLsb' (8 * m) 8

/-- 41_keystream_generator.md R130, R131: the keystream is the blocks for j = 0, 1, 2, ... laid end to end, for every
keystream function, and a longer call sees a longer beginning of the same sequence. The same holds outside the lengths and
the counter range that R131 gives `KSBlock` for, where what the blocks are is the model's choice (log 19). -/
def Obligations.KeystreamIsBlocksEndToEnd : Prop :=
  ∀ (ks : KsChoice) (key nonce : Bytes) (n : Nat),
    (keystream ks key nonce n).length = n ∧
    (∀ j, (ksBlock ks key nonce j).length = ksBlockLen ks) ∧
    (∀ i, i < n → byteAt (keystream ks key nonce n) i =
      byteAt (ksBlock ks key nonce (i / ksBlockLen ks)) (i % ksBlockLen ks)) ∧
    (∀ m, m ≤ n → slice (keystream ks key nonce n) 0 m = keystream ks key nonce m)

/-! ## The datapath -/

/-- 42_xor_datapath.md R160: the checks of apply in their order, and the result when they pass, for data that the block
counter can serve (ApplyStopsPastTheBlockCounter is about the other data). -/
def Obligations.ApplyChecksInOrder : Prop :=
  ∀ (ks : KsChoice) (key nonce data : Bytes),
    (key.length ≠ 32 → apply ks key nonce data = some (.error .invalidKey)) ∧
    (key.length = 32 → nonce.length ≠ 12 → apply ks key nonce data = some (.error .invalidNonce)) ∧
    (key.length = 32 → nonce.length = 12 → ksInitOk ks key nonce = false →
      apply ks key nonce data = some (.error .cipherError)) ∧
    (key.length = 32 → nonce.length = 12 → ksInitOk ks key nonce = true → data.length ≤ ksRoom ks →
      ∃ r, apply ks key nonce data = some (.ok r) ∧ r.length = data.length ∧
        ∀ i, i < data.length → byteAt r i = byteAt data i ^^^ byteAt (keystream ks key nonce data.length) i)

/-- 42_xor_datapath.md R163: apply is its own inverse, for every keystream function that accepts the key and nonce. -/
def Obligations.ApplyIsSelfInverse : Prop :=
  ∀ (ks : KsChoice) (key nonce data : Bytes), key.length = 32 → nonce.length = 12 →
    ksInitOk ks key nonce = true → data.length ≤ ksRoom ks →
    ∃ r, apply ks key nonce data = some (.ok r) ∧ apply ks key nonce r = some (.ok data)

/-- 42_xor_datapath.md R162 (and the identity of 70_reset_and_hazards.md R268): under one key and nonce two outputs differ at
every common offset in exactly the bits in which the inputs differ there, whatever the other bytes and the lengths are. -/
def Obligations.ApplyKeepsBitDifferences : Prop :=
  ∀ (ks : KsChoice) (key nonce a b ra rb : Bytes),
    apply ks key nonce a = some (.ok ra) → apply ks key nonce b = some (.ok rb) →
    ra.length = a.length ∧ rb.length = b.length ∧
    (∀ i, i < a.length → i < b.length → byteAt ra i ^^^ byteAt rb i = byteAt a i ^^^ byteAt b i) ∧
    (∀ i, i < a.length → i < b.length → (byteAt a i = byteAt b i ↔ byteAt ra i = byteAt rb i))

/-- 42_xor_datapath.md R166: `APPLY` whole, for every keystream function: one that accepts the key and the nonce (and can
serve `DLEN` bytes: always so under the default, 41_keystream_generator.md R143, R144) has each byte of `D[0..DLEN)` XORed
with its keystream byte, one that refuses gives `CipherError` and leaves `D` unchanged, and everything else stays. -/
def Obligations.ApplyXorsTheKeystream : Prop :=
  ∀ s : State, s.d.wf = true → s.dlen.toNat ≤ s.params.dcap.val →
    (s.params.ks = .chacha20 → s.cipherReady) ∧
    (s.cipherReady →
      ∃ m, exec .apply s = .next ((s.setD m).setStatus 0#8) ∧ m.wf = true ∧
        (∀ i, i < s.dlen.toNat → m.read i = s.d.read i ^^^
          byteAt (ksBlock s.params.ks s.key.toList s.n.toList (i / ksBlockLen s.params.ks)) (i % ksBlockLen s.params.ks)) ∧
        (∀ a, s.dlen.toNat ≤ a → m.read a = s.d.read a)) ∧
    (ksInitOk s.params.ks s.key.toList s.n.toList = false → exec .apply s = .next (s.setStatus 5#8))

/-- `APPLY` under the default keystream function always completes, with the bytes of the cipher's 64-byte blocks
(41_keystream_generator.md R139, R140), and under an instance whose block counter cannot serve `DLEN` bytes it is refused
("a model refuses it rather than wrap", R143; the model's log 12). -/
def Obligations.ApplyUnderTheDefaultCipher : Prop :=
  ∀ s : State, s.d.wf = true → s.dlen.toNat ≤ s.params.dcap.val →
    (s.params.ks = .chacha20 →
      ∃ m, exec .apply s = .next ((s.setD m).setStatus 0#8) ∧ m.wf = true ∧
        (∀ i, i < s.dlen.toNat → m.read i =
          s.d.read i ^^^ byteAt (chachaBlock s.key.toList s.n.toList (BitVec.ofNat 32 (i / 64))) (i % 64)) ∧
        (∀ a, s.dlen.toNat ≤ a → m.read a = s.d.read a)) ∧
    (ksInitOk s.params.ks s.key.toList s.n.toList = true → ksRoom s.params.ks < s.dlen.toNat →
      exec .apply s = .refused .keystreamExhausted)

/-- apply on data past the range of the block counter has no result, and up to it it has one. Under the default the bound is
2^38 bytes, where 41_keystream_generator.md R143 puts it; that the same stop holds for every other keystream function, at its
own block length and counter width, is the model's choice (log 12, DEDUCED). -/
def Obligations.ApplyStopsPastTheBlockCounter : Prop :=
  ∀ (key nonce data : Bytes), key.length = 32 → nonce.length = 12 →
    (data.length ≤ 2 ^ 38 → ∃ r, apply .chacha20 key nonce data = some (.ok r)) ∧
    (2 ^ 38 < data.length → apply .chacha20 key nonce data = none) ∧
    (∀ ks : KsChoice, ksInitOk ks key nonce = true → ksRoom ks < data.length → apply ks key nonce data = none)

/-! ## The sequencer -/

/-- 43_nonce_sequencer.md R180: `NEXTN` whole: the twelve bytes of `N` (30_encoding.md R82), the counter, `STATUS`, and that
everything else stays. -/
def Obligations.NextnEmitsTheNonce : Prop :=
  ∀ s : State, ∃ v, exec .nextn s = .next (((s.setN v).setCtr (s.ctr + 1#64)).setStatus 0#8) ∧
    (∀ (i : Nat) (h : i < 4), v[i] = s.devid[i]) ∧
    (∀ (k : Nat) (h : k < 8), v[4 + k] = s.ctr.extractLsb' (56 - 8 * k) 8) ∧
    ((s.ctr + 1#64).toNat = (s.ctr.toNat + 1) % 2 ^ 64)

/-- 43_nonce_sequencer.md R177: consecutive `NEXTN`s all complete, call `t` emits `DEVID || be64((c0 + t) mod 2^64)`, and
the calls `t` and `u` emit the same nonce exactly when `t` and `u` agree modulo 2^64: the nonces of up to 2^64 calls are
pairwise distinct, and call 2^64 emits the nonce of call 0. -/
def Obligations.NoncesOfARunAreDistinct : Prop :=
  ∀ s : State,
    (∀ t : Nat, ∃ x, execAll (List.replicate (t + 1) .nextn) s = .next x ∧
      x.n.toList = s.devid.toList ++ be64 (BitVec.ofNat 64 (s.ctr.toNat + t))) ∧
    (∀ t u : Nat, ∃ x y, execAll (List.replicate (t + 1) .nextn) s = .next x ∧
      execAll (List.replicate (u + 1) .nextn) s = .next y ∧ (x.n = y.n ↔ t % 2 ^ 64 = u % 2 ^ 64))

/-- 43_nonce_sequencer.md R179: read as 96-bit big-endian numbers the nonces of one device strictly increase from call to
call until the wrap. -/
def Obligations.NoncesIncreaseUntilTheWrap : Prop :=
  ∀ s : State, s.ctr.toNat < 2 ^ 64 - 1 → ∃ x y, exec .nextn s = .next x ∧ exec .nextn x = .next y ∧
    natOfBe x.n.toList < natOfBe y.n.toList

/-- 10_state.md R22, R23: `CTR` is written only by reset, to 0, and by `NEXTN`, to `CTR + 1`. -/
def Obligations.OnlyNextnAndResetMoveCtr : Prop :=
  ∀ s t : State, step s = .next t →
    (s.nextAction = some (.issue 0x04#8) ∧ t.ctr = s.ctr + 1#64) ∨
    (s.nextAction = some .reset ∧ t.ctr = 0#64) ∨
    (s.nextAction ≠ some (.issue 0x04#8) ∧ s.nextAction ≠ some .reset ∧ t.ctr = s.ctr)

/-! ## The framer -/

/-- 44_packet_framer.md R195: `BUILD` whole: the packet byte by byte (30_encoding.md R85), when it fails, and that
everything else stays. -/
def Obligations.BuildFramesThePacket : Prop :=
  ∀ s : State, s.p.wf = true → s.dlen.toNat ≤ s.params.dcap.val →
    (s.params.pcap.val < 12 + s.dlen.toNat → exec .build s = .next (s.setStatus 1#8)) ∧
    (12 + s.dlen.toNat ≤ s.params.pcap.val →
      ∃ (m : Memory) (len : Byte), exec .build s = .next (((s.setP m).setPlen len).setStatus 0#8) ∧
        len.toNat = 12 + s.dlen.toNat ∧ m.wf = true ∧
        (∀ (i : Nat) (h : i < 12), m.read i = s.n[i]) ∧
        (∀ i, i < s.dlen.toNat → m.read (12 + i) = s.d.read i) ∧
        (∀ a, 12 + s.dlen.toNat ≤ a → m.read a = s.p.read a))

/-- 44_packet_framer.md R196: `PARSE` whole: the two checks in order, the nonce and the ciphertext it takes from the packet,
and that everything else stays. -/
def Obligations.ParseSplitsThePacket : Prop :=
  ∀ s : State, s.d.wf = true → s.plen.toNat ≤ s.params.pcap.val →
    (s.plen.toNat < 20 → exec .parse s = .next (s.setStatus 6#8)) ∧
    (20 ≤ s.plen.toNat → s.params.dcap.val < s.plen.toNat - 12 → exec .parse s = .next (s.setStatus 1#8)) ∧
    (20 ≤ s.plen.toNat → s.plen.toNat - 12 ≤ s.params.dcap.val →
      ∃ (m : Memory) (v : Vector Byte 12) (len : Byte),
        exec .parse s = .next ((((s.setD m).setN v).setDlen len).setStatus 0#8) ∧
        len.toNat = s.plen.toNat - 12 ∧ m.wf = true ∧
        (∀ (i : Nat) (h : i < 12), v[i] = s.p.read i) ∧
        (∀ i, i < s.plen.toNat - 12 → m.read i = s.p.read (12 + i)) ∧
        (∀ a, s.plen.toNat - 12 ≤ a → m.read a = s.d.read a))

/-- 44_packet_framer.md R194: the two inverse laws of the framer's functions, and that the first fails for a nonce that is
not 12 bytes long. -/
def Obligations.FramerInverseLaws : Prop :=
  (∀ (nonce ct : Bytes) (cap : Nat), nonce.length = 12 → 8 ≤ ct.length → nonce.length + ct.length ≤ cap →
    ∃ pkt len, buildPacket nonce ct cap = .ok (pkt, len) ∧ len = pkt.length ∧ parsePacket pkt = .ok (nonce, ct)) ∧
  (∀ raw : Bytes, 20 ≤ raw.length → ∃ n c, parsePacket raw = .ok (n, c) ∧
    buildPacket n c raw.length = .ok (raw, raw.length)) ∧
  (∀ (nonce ct pkt : Bytes) (cap len : Nat), nonce.length ≠ 12 → buildPacket nonce ct cap = .ok (pkt, len) →
    parsePacket pkt ≠ .ok (nonce, ct))

/-- `PARSE` after a `BUILD` of at least 8 bytes finds the nonce, the data and the length as they were: it changes nothing
(44_packet_framer.md R194 at the command level). -/
def Obligations.ParseAfterBuildChangesNothing : Prop :=
  ∀ s : State, s.Inv → 8 ≤ s.dlen.toNat → 12 + s.dlen.toNat ≤ s.params.pcap.val →
    ∃ t, exec .build s = .next t ∧ exec .parse t = .next t

/-- 44_packet_framer.md R192, R193, R198: packets below 20 bytes are too short, and the 8-byte ciphertext of a 20-byte
packet is always rejected by deserialize. -/
def Obligations.ShortPacketsAreRejected : Prop :=
  (∀ raw : Bytes, raw.length < 20 → parsePacket raw = .error .packetTooShort) ∧
  (∀ raw : Bytes, raw.length = 20 → ∃ n c, parsePacket raw = .ok (n, c) ∧
    ∀ (ks : KsChoice) (policy : FlagPolicy) (key pt : Bytes), apply ks key n c = some (.ok pt) →
      deserialize policy pt = .error .malformedPlaintext)

/-- 44_packet_framer.md R199: `PARSE` compares nothing of the packet with `DEVID`, `CTR` or the nonce held before. -/
def Obligations.ParseChecksNothingOfTheNonce : Prop :=
  ∀ (s t : State) (dev : Vector Byte 4) (c : DWord) (n : Vector Byte 12), exec .parse s = .next t → t.status = 0#8 →
    exec .parse (((s.withDevid dev).setCtr c).setN n) = .next ((t.withDevid dev).setCtr c)

/-! ## Every command, every step -/

/-- 60_exceptions.md R232: a failing command changes `STATUS` and nothing else. -/
def Obligations.FailureChangesOnlyStatus : Prop :=
  ∀ (i : Instr) (s t : State), exec i s = .next t → t.status ≠ 0#8 → t = s.setStatus t.status

/-- 60_exceptions.md R226, R229: the codes each command can leave in `STATUS`. -/
def Obligations.StatusCodesOfEachCommand : Prop :=
  ∀ s t : State,
    (exec .ser s = .next t → t.status = 0#8 ∨ t.status = 1#8) ∧
    (exec .des s = .next t → t.status = 0#8 ∨ t.status = 2#8) ∧
    (exec .apply s = .next t →
      t.status = 0#8 ∨ (t.status = 5#8 ∧ ksInitOk s.params.ks s.key.toList s.n.toList = false)) ∧
    (exec .nextn s = .next t → t.status = 0#8) ∧
    (exec .build s = .next t → t.status = 0#8 ∨ t.status = 1#8) ∧
    (exec .parse s = .next t → t.status = 0#8 ∨ t.status = 1#8 ∨ t.status = 6#8)

/-- 10_state.md R32: no command reads `STATUS`. -/
def Obligations.NoCommandReadsStatus : Prop :=
  ∀ (i : Instr) (s : State) (c : Byte), exec i (s.setStatus c) = exec i s

/-- 20_memory.md R58: `SER`, `DES`, `BUILD` and `PARSE` are idempotent, `APPLY` restores the data when issued twice, and
`NEXTN` changes `CTR` and emits another nonce each time. -/
def Obligations.RepeatedCommands : Prop :=
  ∀ s : State, s.Inv →
    (∀ (i : Instr) (t : State), i = .ser ∨ i = .des ∨ i = .build ∨ i = .parse →
      exec i s = .next t → exec i t = .next t) ∧
    (s.cipherReady → ∃ t, exec .apply s = .next t ∧ exec .apply t = .next (s.setStatus 0#8)) ∧
    (∃ x y, exec .nextn s = .next x ∧ exec .nextn x = .next y ∧ x.ctr ≠ s.ctr ∧ x.n ≠ y.n)

/-- 10_state.md R30: no command's result depends on the stale bytes: two states that differ only at or past `DLEN` in `D`
and at or past `PLEN` in `P` go to states that again differ only so. -/
def Obligations.StaleBytesDoNotMatter : Prop :=
  ∀ (i : Instr) (s t : State) (m q : Memory),
    s.d.wf = true → s.p.wf = true → m.wf = true → q.wf = true →
    (∀ a, a < s.dlen.toNat → m.read a = s.d.read a) → (∀ a, a < s.plen.toNat → q.read a = s.p.read a) →
    exec i s = .next t →
    ∃ m' q', exec i ((s.setD m).setP q) = .next ((t.setD m').setP q') ∧
      (∀ a, a < t.dlen.toNat → m'.read a = t.d.read a) ∧ (∀ a, a < t.plen.toNat → q'.read a = t.p.read a)

/-- 10_state.md R24, R26, 00_scope.md R6: no step changes `KEY`, `DEVID` or a parameter. -/
def Obligations.ConstantsNeverChange : Prop :=
  ∀ s t : State, step s = .next t → t.key = s.key ∧ t.devid = s.devid ∧ t.params = s.params

/-- 10_state.md R25: nothing the host can see depends on `KEY`, but for the bytes `APPLY` XORs into `D`: under another key
each byte below `DLEN` differs by the XOR of the two keystream bytes, and no other byte differs. (Under a keystream function
that can refuse, whether it refuses may depend on the key too: the two keys must be accepted or refused alike.) -/
def Obligations.KeyReachesOnlyTheData : Prop :=
  ∀ (s t : State) (k : Vector Byte 32), step s = .next t →
    (s.nextAction ≠ some (.issue 0x03#8) → step (s.withKey k) = .next (t.withKey k)) ∧
    (s.nextAction = some (.issue 0x03#8) → s.d.wf = true →
      ksInitOk s.params.ks k.toList s.n.toList = ksInitOk s.params.ks s.key.toList s.n.toList →
      ∃ m, step (s.withKey k) = .next ((t.withKey k).setD m) ∧ m.wf = true ∧
        (∀ a, s.dlen.toNat ≤ a → m.read a = t.d.read a) ∧
        (ksInitOk s.params.ks s.key.toList s.n.toList = true → ∀ i, i < s.dlen.toNat →
          m.read i = t.d.read i ^^^
            (byteAt (ksBlock s.params.ks s.key.toList s.n.toList (i / ksBlockLen s.params.ks)) (i % ksBlockLen s.params.ks)
              ^^^ byteAt (ksBlock s.params.ks k.toList s.n.toList (i / ksBlockLen s.params.ks))
                (i % ksBlockLen s.params.ks))) ∧
        (ksInitOk s.params.ks s.key.toList s.n.toList = false → m = t.d))

/-- 20_memory.md R57, 45_pipelines.md R213, R214: from every state that holds the invariant every command completes under
the default keystream function. -/
def Obligations.EveryCommandCompletes : Prop :=
  ∀ (i : Instr) (s : State), s.Inv → s.params.ks = .chacha20 → ∃ t, exec i s = .next t ∧ t.pending = s.pending

/-- 10_state.md R31, with the model's own canonical form: every step keeps the invariant. -/
def Obligations.EveryStepKeepsTheInvariant : Prop :=
  ∀ s t : State, s.Inv → step s = .next t → t.Inv

/-- 20_memory.md R57, 45_pipelines.md R214: a run of existing host actions from a sound state never faults; under the
default keystream function it goes on as long as actions are left, and it ends: after some number of steps none is left. -/
def Obligations.SoundRunsNeverFault : Prop :=
  ∀ s : State, s.Inv → s.hostWellFormed = true →
    (∀ (k : Nat) (f : Fault), runSteps k s ≠ .fault f) ∧
    (s.params.ks = .chacha20 →
      (∀ k : Nat, ∃ t, runSteps k s = .next t ∧ t.Inv ∧ t.hostWellFormed = true) ∧
      ∃ (k : Nat) (t : State), runSteps k s = .next t ∧ t.pending = [])

/-! ## Pipelines -/

/-- 45_pipelines.md R210: `decrypt(encrypt(coord, key, nonce), key, nonce) = coord` for every keystream function that
accepts the key and nonce and every flag policy, directly and through the framer. -/
def Obligations.EncryptDecryptRoundTrip : Prop :=
  ∀ (ks : KsChoice) (policy : FlagPolicy) (c : Coord) (key nonce : Bytes), key.length = 32 → nonce.length = 12 →
    ksInitOk ks key nonce = true → 13 ≤ ksRoom ks →
    ∃ ct, encryptFn ks c key nonce = some (.ok ct) ∧ decryptFn ks policy ct key nonce = some (.ok c) ∧
      ∃ pkt len, buildPacket nonce ct 25 = .ok (pkt, len) ∧
        ∃ n' ct', parsePacket pkt = .ok (n', ct') ∧ n' = nonce ∧ decryptFn ks policy ct' key n' = some (.ok c)

/-- 45_pipelines.md R207: `ENCRYPT` whole: the end state when all four commands succeed; when `D` is too small nothing but
`STATUS` changes and no nonce is drawn; when `P` is too small the ciphertext is in `D`, the nonce is spent and `P` stays.
For every keystream function that accepts the key and the nonce drawn and can serve the record. -/
def Obligations.EncryptEndState : Prop :=
  ∀ (s : State) (rest : List PortItem) (need : Nat) (nonce : Bytes), s.Inv → s.pending = encryptItem :: rest →
    need = (if s.af then 13 else 9) → nonce = s.devid.toList ++ be64 s.ctr →
    (s.params.dcap.val < need → runSteps 1 s = .next ((s.setPending rest).setStatus 1#8)) ∧
    (need ≤ s.params.dcap.val → ksInitOk s.params.ks s.key.toList nonce = true → need ≤ ksRoom s.params.ks →
      ∃ pt t, serialize (stagedCoord s) s.params.dcap.val = .ok pt ∧ runSteps 4 s = .next t ∧
        t.n.toList = nonce ∧ t.ctr = s.ctr + 1#64 ∧ t.dlen.toNat = need ∧
        t.d.readBytes 0 need = xorBytes pt (keystream s.params.ks s.key.toList nonce need) ∧
        (∀ a, need ≤ a → t.d.read a = s.d.read a) ∧
        (12 + need ≤ s.params.pcap.val →
          t.plen.toNat = 12 + need ∧ t.p.readBytes 0 (12 + need) = nonce ++ t.d.readBytes 0 need ∧
          (∀ a, 12 + need ≤ a → t.p.read a = s.p.read a) ∧ t.status = 0#8) ∧
        (s.params.pcap.val < 12 + need → t.p = s.p ∧ t.plen = s.plen ∧ t.status = 1#8) ∧
        t = (((((((s.setN t.n).setCtr t.ctr).setD t.d).setDlen t.dlen).setP t.p).setPlen t.plen).setStatus
          t.status).setPending rest)

/-- 45_pipelines.md R208: `ENCRYPT` with a supplied nonce: `NEXTN` is not issued, `CTR` does not move, and the packet
carries the supplied twelve bytes. When `D` is too small nothing but `STATUS` changes, the nonce is not written; when `P` is
too small the ciphertext is in `D`, the nonce in `N`, and `P` stays. For every keystream function that accepts the key and
the supplied nonce and can serve the record. -/
def Obligations.EncryptWithSuppliedNonce : Prop :=
  ∀ (s : State) (rest : List PortItem) (need : Nat) (nonce : Bytes), s.Inv → nonce.length = 12 →
    s.pending = encryptSuppliedItem nonce :: rest → need = (if s.af then 13 else 9) →
    (s.params.dcap.val < need → runSteps 1 s = .next ((s.setPending rest).setStatus 1#8)) ∧
    (need ≤ s.params.dcap.val → ksInitOk s.params.ks s.key.toList nonce = true → need ≤ ksRoom s.params.ks →
      ∃ pt t, serialize (stagedCoord s) s.params.dcap.val = .ok pt ∧ runSteps 15 s = .next t ∧
        t.ctr = s.ctr ∧ t.n.toList = nonce ∧ t.dlen.toNat = need ∧
        t.d.readBytes 0 need = xorBytes pt (keystream s.params.ks s.key.toList nonce need) ∧
        (∀ a, need ≤ a → t.d.read a = s.d.read a) ∧
        (12 + need ≤ s.params.pcap.val →
          t.plen.toNat = 12 + need ∧ t.p.readBytes 0 (12 + need) = nonce ++ t.d.readBytes 0 need ∧
          (∀ a, 12 + need ≤ a → t.p.read a = s.p.read a) ∧ t.status = 0#8) ∧
        (s.params.pcap.val < 12 + need → t.p = s.p ∧ t.plen = s.plen ∧ t.status = 1#8) ∧
        t = ((((((s.setN t.n).setD t.d).setDlen t.dlen).setP t.p).setPlen t.plen).setStatus t.status).setPending rest)

/-- 45_pipelines.md R209: `DECRYPT` whole: the end state when all three commands succeed, when the last one fails (the nonce
and the decrypted bytes are in place, the record stays), and when the first one fails (only `STATUS` changes and the later
commands are not issued). For every keystream function that accepts the packet. -/
def Obligations.DecryptEndState : Prop :=
  ∀ (s : State) (rest : List PortItem) (nonce ct : Bytes), s.Inv → s.pending = decryptItem :: rest →
    nonce = s.p.readBytes 0 12 → ct = s.p.readBytes 12 (s.plen.toNat - 12) →
    (s.plen.toNat < 20 → runSteps 1 s = .next ((s.setPending rest).setStatus 6#8)) ∧
    (20 ≤ s.plen.toNat → s.params.dcap.val < s.plen.toNat - 12 →
      runSteps 1 s = .next ((s.setPending rest).setStatus 1#8)) ∧
    (20 ≤ s.plen.toNat → s.plen.toNat - 12 ≤ s.params.dcap.val →
      ksInitOk s.params.ks s.key.toList nonce = true → s.plen.toNat - 12 ≤ ksRoom s.params.ks →
      ∃ t, runSteps 3 s = .next t ∧ t.n.toList = nonce ∧ t.dlen.toNat = s.plen.toNat - 12 ∧
        t.d.readBytes 0 (s.plen.toNat - 12) =
          xorBytes ct (keystream s.params.ks s.key.toList nonce (s.plen.toNat - 12)) ∧
        (∀ a, s.plen.toNat - 12 ≤ a → t.d.read a = s.d.read a) ∧
        (∀ c, deserialize s.params.flagPolicy (t.d.readBytes 0 (s.plen.toNat - 12)) = .ok c →
          t = ((putCoord c (((s.setN t.n).setD t.d).setDlen t.dlen)).setStatus 0#8).setPending rest ∧
          t.lat = c.lat ∧ t.lon = c.lon ∧ t.af = c.alt.isSome ∧ t.alt = c.alt.getD 0#32) ∧
        (∀ e, deserialize s.params.flagPolicy (t.d.readBytes 0 (s.plen.toNat - 12)) = .error e →
          t = ((((s.setN t.n).setD t.d).setDlen t.dlen).setStatus 2#8).setPending rest))

/-- 45_pipelines.md R211: a record that the sender encrypts arrives at a receiver with the same key and keystream function,
whatever the two devices' prefixes and counters are. -/
def Obligations.SenderReceiverPair : Prop :=
  ∀ (s r t : State) (rest rest' : List PortItem), s.Inv → r.Inv →
    s.key = r.key → s.params.ks = r.params.ks →
    13 ≤ s.params.dcap.val → 25 ≤ s.params.pcap.val → 13 ≤ r.params.dcap.val → 25 ≤ r.params.pcap.val →
    ksInitOk s.params.ks s.key.toList (s.devid.toList ++ be64 s.ctr) = true → 13 ≤ ksRoom s.params.ks →
    s.pending = encryptItem :: rest → runSteps 4 s = .next t →
    r.pending = decryptItem :: rest' → r.plen = t.plen →
    (∀ a, a < t.plen.toNat → r.p.read a = t.p.read a) →
    ∃ u, runSteps 3 r = .next u ∧ u.status = 0#8 ∧ stagedCoord u = stagedCoord s ∧ (s.af = false → u.alt = 0#32)

/-- 70_reset_and_hazards.md R271: flipping bits of one ciphertext byte flips the same bits of that plaintext byte and
nothing else: no integrity. -/
def Obligations.FlippedBitsPassThrough : Prop :=
  ∀ (ks : KsChoice) (key nonce ct pt : Bytes) (i : Nat) (mask : Byte), i < ct.length →
    apply ks key nonce ct = some (.ok pt) →
    apply ks key nonce (ct.set i (byteAt ct i ^^^ mask)) = some (.ok (pt.set i (byteAt pt i ^^^ mask)))
end

