-- ==== Sys2Proof/Laws/State.lean ====
section
/-! SUPPORT. What each field update of Machine/Ops.lean leaves in each field: one lemma per field per update. -/

namespace Sys2Proof.Machine

section
variable (v : DWord) (s : State)
@[simp] theorem State.setCtr_params : (s.setCtr v).params = s.params := rfl
@[simp] theorem State.setCtr_key : (s.setCtr v).key = s.key := rfl
@[simp] theorem State.setCtr_devid : (s.setCtr v).devid = s.devid := rfl
@[simp] theorem State.setCtr_ctr : (s.setCtr v).ctr = v := rfl
@[simp] theorem State.setCtr_lat : (s.setCtr v).lat = s.lat := rfl
@[simp] theorem State.setCtr_lon : (s.setCtr v).lon = s.lon := rfl
@[simp] theorem State.setCtr_af : (s.setCtr v).af = s.af := rfl
@[simp] theorem State.setCtr_alt : (s.setCtr v).alt = s.alt := rfl
@[simp] theorem State.setCtr_n : (s.setCtr v).n = s.n := rfl
@[simp] theorem State.setCtr_d : (s.setCtr v).d = s.d := rfl
@[simp] theorem State.setCtr_dlen : (s.setCtr v).dlen = s.dlen := rfl
@[simp] theorem State.setCtr_p : (s.setCtr v).p = s.p := rfl
@[simp] theorem State.setCtr_plen : (s.setCtr v).plen = s.plen := rfl
@[simp] theorem State.setCtr_status : (s.setCtr v).status = s.status := rfl
@[simp] theorem State.setCtr_pending : (s.setCtr v).pending = s.pending := rfl
@[simp] theorem State.setCtr_replies : (s.setCtr v).replies = s.replies := rfl
@[simp] theorem State.setCtr_draws : (s.setCtr v).draws = s.draws := rfl
end

section
variable (v : Word) (s : State)
@[simp] theorem State.setLat_params : (s.setLat v).params = s.params := rfl
@[simp] theorem State.setLat_key : (s.setLat v).key = s.key := rfl
@[simp] theorem State.setLat_devid : (s.setLat v).devid = s.devid := rfl
@[simp] theorem State.setLat_ctr : (s.setLat v).ctr = s.ctr := rfl
@[simp] theorem State.setLat_lat : (s.setLat v).lat = v := rfl
@[simp] theorem State.setLat_lon : (s.setLat v).lon = s.lon := rfl
@[simp] theorem State.setLat_af : (s.setLat v).af = s.af := rfl
@[simp] theorem State.setLat_alt : (s.setLat v).alt = s.alt := rfl
@[simp] theorem State.setLat_n : (s.setLat v).n = s.n := rfl
@[simp] theorem State.setLat_d : (s.setLat v).d = s.d := rfl
@[simp] theorem State.setLat_dlen : (s.setLat v).dlen = s.dlen := rfl
@[simp] theorem State.setLat_p : (s.setLat v).p = s.p := rfl
@[simp] theorem State.setLat_plen : (s.setLat v).plen = s.plen := rfl
@[simp] theorem State.setLat_status : (s.setLat v).status = s.status := rfl
@[simp] theorem State.setLat_pending : (s.setLat v).pending = s.pending := rfl
@[simp] theorem State.setLat_replies : (s.setLat v).replies = s.replies := rfl
@[simp] theorem State.setLat_draws : (s.setLat v).draws = s.draws := rfl
end

section
variable (v : Word) (s : State)
@[simp] theorem State.setLon_params : (s.setLon v).params = s.params := rfl
@[simp] theorem State.setLon_key : (s.setLon v).key = s.key := rfl
@[simp] theorem State.setLon_devid : (s.setLon v).devid = s.devid := rfl
@[simp] theorem State.setLon_ctr : (s.setLon v).ctr = s.ctr := rfl
@[simp] theorem State.setLon_lat : (s.setLon v).lat = s.lat := rfl
@[simp] theorem State.setLon_lon : (s.setLon v).lon = v := rfl
@[simp] theorem State.setLon_af : (s.setLon v).af = s.af := rfl
@[simp] theorem State.setLon_alt : (s.setLon v).alt = s.alt := rfl
@[simp] theorem State.setLon_n : (s.setLon v).n = s.n := rfl
@[simp] theorem State.setLon_d : (s.setLon v).d = s.d := rfl
@[simp] theorem State.setLon_dlen : (s.setLon v).dlen = s.dlen := rfl
@[simp] theorem State.setLon_p : (s.setLon v).p = s.p := rfl
@[simp] theorem State.setLon_plen : (s.setLon v).plen = s.plen := rfl
@[simp] theorem State.setLon_status : (s.setLon v).status = s.status := rfl
@[simp] theorem State.setLon_pending : (s.setLon v).pending = s.pending := rfl
@[simp] theorem State.setLon_replies : (s.setLon v).replies = s.replies := rfl
@[simp] theorem State.setLon_draws : (s.setLon v).draws = s.draws := rfl
end

section
variable (v : Bool) (s : State)
@[simp] theorem State.setAf_params : (s.setAf v).params = s.params := rfl
@[simp] theorem State.setAf_key : (s.setAf v).key = s.key := rfl
@[simp] theorem State.setAf_devid : (s.setAf v).devid = s.devid := rfl
@[simp] theorem State.setAf_ctr : (s.setAf v).ctr = s.ctr := rfl
@[simp] theorem State.setAf_lat : (s.setAf v).lat = s.lat := rfl
@[simp] theorem State.setAf_lon : (s.setAf v).lon = s.lon := rfl
@[simp] theorem State.setAf_af : (s.setAf v).af = v := rfl
@[simp] theorem State.setAf_alt : (s.setAf v).alt = s.alt := rfl
@[simp] theorem State.setAf_n : (s.setAf v).n = s.n := rfl
@[simp] theorem State.setAf_d : (s.setAf v).d = s.d := rfl
@[simp] theorem State.setAf_dlen : (s.setAf v).dlen = s.dlen := rfl
@[simp] theorem State.setAf_p : (s.setAf v).p = s.p := rfl
@[simp] theorem State.setAf_plen : (s.setAf v).plen = s.plen := rfl
@[simp] theorem State.setAf_status : (s.setAf v).status = s.status := rfl
@[simp] theorem State.setAf_pending : (s.setAf v).pending = s.pending := rfl
@[simp] theorem State.setAf_replies : (s.setAf v).replies = s.replies := rfl
@[simp] theorem State.setAf_draws : (s.setAf v).draws = s.draws := rfl
end

section
variable (v : Word) (s : State)
@[simp] theorem State.setAlt_params : (s.setAlt v).params = s.params := rfl
@[simp] theorem State.setAlt_key : (s.setAlt v).key = s.key := rfl
@[simp] theorem State.setAlt_devid : (s.setAlt v).devid = s.devid := rfl
@[simp] theorem State.setAlt_ctr : (s.setAlt v).ctr = s.ctr := rfl
@[simp] theorem State.setAlt_lat : (s.setAlt v).lat = s.lat := rfl
@[simp] theorem State.setAlt_lon : (s.setAlt v).lon = s.lon := rfl
@[simp] theorem State.setAlt_af : (s.setAlt v).af = s.af := rfl
@[simp] theorem State.setAlt_alt : (s.setAlt v).alt = v := rfl
@[simp] theorem State.setAlt_n : (s.setAlt v).n = s.n := rfl
@[simp] theorem State.setAlt_d : (s.setAlt v).d = s.d := rfl
@[simp] theorem State.setAlt_dlen : (s.setAlt v).dlen = s.dlen := rfl
@[simp] theorem State.setAlt_p : (s.setAlt v).p = s.p := rfl
@[simp] theorem State.setAlt_plen : (s.setAlt v).plen = s.plen := rfl
@[simp] theorem State.setAlt_status : (s.setAlt v).status = s.status := rfl
@[simp] theorem State.setAlt_pending : (s.setAlt v).pending = s.pending := rfl
@[simp] theorem State.setAlt_replies : (s.setAlt v).replies = s.replies := rfl
@[simp] theorem State.setAlt_draws : (s.setAlt v).draws = s.draws := rfl
end

section
variable (v : Vector Byte 12) (s : State)
@[simp] theorem State.setN_params : (s.setN v).params = s.params := rfl
@[simp] theorem State.setN_key : (s.setN v).key = s.key := rfl
@[simp] theorem State.setN_devid : (s.setN v).devid = s.devid := rfl
@[simp] theorem State.setN_ctr : (s.setN v).ctr = s.ctr := rfl
@[simp] theorem State.setN_lat : (s.setN v).lat = s.lat := rfl
@[simp] theorem State.setN_lon : (s.setN v).lon = s.lon := rfl
@[simp] theorem State.setN_af : (s.setN v).af = s.af := rfl
@[simp] theorem State.setN_alt : (s.setN v).alt = s.alt := rfl
@[simp] theorem State.setN_n : (s.setN v).n = v := rfl
@[simp] theorem State.setN_d : (s.setN v).d = s.d := rfl
@[simp] theorem State.setN_dlen : (s.setN v).dlen = s.dlen := rfl
@[simp] theorem State.setN_p : (s.setN v).p = s.p := rfl
@[simp] theorem State.setN_plen : (s.setN v).plen = s.plen := rfl
@[simp] theorem State.setN_status : (s.setN v).status = s.status := rfl
@[simp] theorem State.setN_pending : (s.setN v).pending = s.pending := rfl
@[simp] theorem State.setN_replies : (s.setN v).replies = s.replies := rfl
@[simp] theorem State.setN_draws : (s.setN v).draws = s.draws := rfl
end

section
variable (v : Memory) (s : State)
@[simp] theorem State.setD_params : (s.setD v).params = s.params := rfl
@[simp] theorem State.setD_key : (s.setD v).key = s.key := rfl
@[simp] theorem State.setD_devid : (s.setD v).devid = s.devid := rfl
@[simp] theorem State.setD_ctr : (s.setD v).ctr = s.ctr := rfl
@[simp] theorem State.setD_lat : (s.setD v).lat = s.lat := rfl
@[simp] theorem State.setD_lon : (s.setD v).lon = s.lon := rfl
@[simp] theorem State.setD_af : (s.setD v).af = s.af := rfl
@[simp] theorem State.setD_alt : (s.setD v).alt = s.alt := rfl
@[simp] theorem State.setD_n : (s.setD v).n = s.n := rfl
@[simp] theorem State.setD_d : (s.setD v).d = v := rfl
@[simp] theorem State.setD_dlen : (s.setD v).dlen = s.dlen := rfl
@[simp] theorem State.setD_p : (s.setD v).p = s.p := rfl
@[simp] theorem State.setD_plen : (s.setD v).plen = s.plen := rfl
@[simp] theorem State.setD_status : (s.setD v).status = s.status := rfl
@[simp] theorem State.setD_pending : (s.setD v).pending = s.pending := rfl
@[simp] theorem State.setD_replies : (s.setD v).replies = s.replies := rfl
@[simp] theorem State.setD_draws : (s.setD v).draws = s.draws := rfl
end

section
variable (v : Byte) (s : State)
@[simp] theorem State.setDlen_params : (s.setDlen v).params = s.params := rfl
@[simp] theorem State.setDlen_key : (s.setDlen v).key = s.key := rfl
@[simp] theorem State.setDlen_devid : (s.setDlen v).devid = s.devid := rfl
@[simp] theorem State.setDlen_ctr : (s.setDlen v).ctr = s.ctr := rfl
@[simp] theorem State.setDlen_lat : (s.setDlen v).lat = s.lat := rfl
@[simp] theorem State.setDlen_lon : (s.setDlen v).lon = s.lon := rfl
@[simp] theorem State.setDlen_af : (s.setDlen v).af = s.af := rfl
@[simp] theorem State.setDlen_alt : (s.setDlen v).alt = s.alt := rfl
@[simp] theorem State.setDlen_n : (s.setDlen v).n = s.n := rfl
@[simp] theorem State.setDlen_d : (s.setDlen v).d = s.d := rfl
@[simp] theorem State.setDlen_dlen : (s.setDlen v).dlen = v := rfl
@[simp] theorem State.setDlen_p : (s.setDlen v).p = s.p := rfl
@[simp] theorem State.setDlen_plen : (s.setDlen v).plen = s.plen := rfl
@[simp] theorem State.setDlen_status : (s.setDlen v).status = s.status := rfl
@[simp] theorem State.setDlen_pending : (s.setDlen v).pending = s.pending := rfl
@[simp] theorem State.setDlen_replies : (s.setDlen v).replies = s.replies := rfl
@[simp] theorem State.setDlen_draws : (s.setDlen v).draws = s.draws := rfl
end

section
variable (v : Memory) (s : State)
@[simp] theorem State.setP_params : (s.setP v).params = s.params := rfl
@[simp] theorem State.setP_key : (s.setP v).key = s.key := rfl
@[simp] theorem State.setP_devid : (s.setP v).devid = s.devid := rfl
@[simp] theorem State.setP_ctr : (s.setP v).ctr = s.ctr := rfl
@[simp] theorem State.setP_lat : (s.setP v).lat = s.lat := rfl
@[simp] theorem State.setP_lon : (s.setP v).lon = s.lon := rfl
@[simp] theorem State.setP_af : (s.setP v).af = s.af := rfl
@[simp] theorem State.setP_alt : (s.setP v).alt = s.alt := rfl
@[simp] theorem State.setP_n : (s.setP v).n = s.n := rfl
@[simp] theorem State.setP_d : (s.setP v).d = s.d := rfl
@[simp] theorem State.setP_dlen : (s.setP v).dlen = s.dlen := rfl
@[simp] theorem State.setP_p : (s.setP v).p = v := rfl
@[simp] theorem State.setP_plen : (s.setP v).plen = s.plen := rfl
@[simp] theorem State.setP_status : (s.setP v).status = s.status := rfl
@[simp] theorem State.setP_pending : (s.setP v).pending = s.pending := rfl
@[simp] theorem State.setP_replies : (s.setP v).replies = s.replies := rfl
@[simp] theorem State.setP_draws : (s.setP v).draws = s.draws := rfl
end

section
variable (v : Byte) (s : State)
@[simp] theorem State.setPlen_params : (s.setPlen v).params = s.params := rfl
@[simp] theorem State.setPlen_key : (s.setPlen v).key = s.key := rfl
@[simp] theorem State.setPlen_devid : (s.setPlen v).devid = s.devid := rfl
@[simp] theorem State.setPlen_ctr : (s.setPlen v).ctr = s.ctr := rfl
@[simp] theorem State.setPlen_lat : (s.setPlen v).lat = s.lat := rfl
@[simp] theorem State.setPlen_lon : (s.setPlen v).lon = s.lon := rfl
@[simp] theorem State.setPlen_af : (s.setPlen v).af = s.af := rfl
@[simp] theorem State.setPlen_alt : (s.setPlen v).alt = s.alt := rfl
@[simp] theorem State.setPlen_n : (s.setPlen v).n = s.n := rfl
@[simp] theorem State.setPlen_d : (s.setPlen v).d = s.d := rfl
@[simp] theorem State.setPlen_dlen : (s.setPlen v).dlen = s.dlen := rfl
@[simp] theorem State.setPlen_p : (s.setPlen v).p = s.p := rfl
@[simp] theorem State.setPlen_plen : (s.setPlen v).plen = v := rfl
@[simp] theorem State.setPlen_status : (s.setPlen v).status = s.status := rfl
@[simp] theorem State.setPlen_pending : (s.setPlen v).pending = s.pending := rfl
@[simp] theorem State.setPlen_replies : (s.setPlen v).replies = s.replies := rfl
@[simp] theorem State.setPlen_draws : (s.setPlen v).draws = s.draws := rfl
end

section
variable (v : Byte) (s : State)
@[simp] theorem State.setStatus_params : (s.setStatus v).params = s.params := rfl
@[simp] theorem State.setStatus_key : (s.setStatus v).key = s.key := rfl
@[simp] theorem State.setStatus_devid : (s.setStatus v).devid = s.devid := rfl
@[simp] theorem State.setStatus_ctr : (s.setStatus v).ctr = s.ctr := rfl
@[simp] theorem State.setStatus_lat : (s.setStatus v).lat = s.lat := rfl
@[simp] theorem State.setStatus_lon : (s.setStatus v).lon = s.lon := rfl
@[simp] theorem State.setStatus_af : (s.setStatus v).af = s.af := rfl
@[simp] theorem State.setStatus_alt : (s.setStatus v).alt = s.alt := rfl
@[simp] theorem State.setStatus_n : (s.setStatus v).n = s.n := rfl
@[simp] theorem State.setStatus_d : (s.setStatus v).d = s.d := rfl
@[simp] theorem State.setStatus_dlen : (s.setStatus v).dlen = s.dlen := rfl
@[simp] theorem State.setStatus_p : (s.setStatus v).p = s.p := rfl
@[simp] theorem State.setStatus_plen : (s.setStatus v).plen = s.plen := rfl
@[simp] theorem State.setStatus_status : (s.setStatus v).status = v := rfl
@[simp] theorem State.setStatus_pending : (s.setStatus v).pending = s.pending := rfl
@[simp] theorem State.setStatus_replies : (s.setStatus v).replies = s.replies := rfl
@[simp] theorem State.setStatus_draws : (s.setStatus v).draws = s.draws := rfl
end

section
variable (v : List PortItem) (s : State)
@[simp] theorem State.setPending_params : (s.setPending v).params = s.params := rfl
@[simp] theorem State.setPending_key : (s.setPending v).key = s.key := rfl
@[simp] theorem State.setPending_devid : (s.setPending v).devid = s.devid := rfl
@[simp] theorem State.setPending_ctr : (s.setPending v).ctr = s.ctr := rfl
@[simp] theorem State.setPending_lat : (s.setPending v).lat = s.lat := rfl
@[simp] theorem State.setPending_lon : (s.setPending v).lon = s.lon := rfl
@[simp] theorem State.setPending_af : (s.setPending v).af = s.af := rfl
@[simp] theorem State.setPending_alt : (s.setPending v).alt = s.alt := rfl
@[simp] theorem State.setPending_n : (s.setPending v).n = s.n := rfl
@[simp] theorem State.setPending_d : (s.setPending v).d = s.d := rfl
@[simp] theorem State.setPending_dlen : (s.setPending v).dlen = s.dlen := rfl
@[simp] theorem State.setPending_p : (s.setPending v).p = s.p := rfl
@[simp] theorem State.setPending_plen : (s.setPending v).plen = s.plen := rfl
@[simp] theorem State.setPending_status : (s.setPending v).status = s.status := rfl
@[simp] theorem State.setPending_pending : (s.setPending v).pending = v := rfl
@[simp] theorem State.setPending_replies : (s.setPending v).replies = s.replies := rfl
@[simp] theorem State.setPending_draws : (s.setPending v).draws = s.draws := rfl
end

section
variable (v : Reply) (s : State)
@[simp] theorem State.addReply_params : (s.addReply v).params = s.params := rfl
@[simp] theorem State.addReply_key : (s.addReply v).key = s.key := rfl
@[simp] theorem State.addReply_devid : (s.addReply v).devid = s.devid := rfl
@[simp] theorem State.addReply_ctr : (s.addReply v).ctr = s.ctr := rfl
@[simp] theorem State.addReply_lat : (s.addReply v).lat = s.lat := rfl
@[simp] theorem State.addReply_lon : (s.addReply v).lon = s.lon := rfl
@[simp] theorem State.addReply_af : (s.addReply v).af = s.af := rfl
@[simp] theorem State.addReply_alt : (s.addReply v).alt = s.alt := rfl
@[simp] theorem State.addReply_n : (s.addReply v).n = s.n := rfl
@[simp] theorem State.addReply_d : (s.addReply v).d = s.d := rfl
@[simp] theorem State.addReply_dlen : (s.addReply v).dlen = s.dlen := rfl
@[simp] theorem State.addReply_p : (s.addReply v).p = s.p := rfl
@[simp] theorem State.addReply_plen : (s.addReply v).plen = s.plen := rfl
@[simp] theorem State.addReply_status : (s.addReply v).status = s.status := rfl
@[simp] theorem State.addReply_pending : (s.addReply v).pending = s.pending := rfl
@[simp] theorem State.addReply_replies : (s.addReply v).replies = s.replies ++ [v] := rfl
@[simp] theorem State.addReply_draws : (s.addReply v).draws = s.draws := rfl
end

section
variable (v : Nat) (s : State)
@[simp] theorem State.setDraws_params : (s.setDraws v).params = s.params := rfl
@[simp] theorem State.setDraws_key : (s.setDraws v).key = s.key := rfl
@[simp] theorem State.setDraws_devid : (s.setDraws v).devid = s.devid := rfl
@[simp] theorem State.setDraws_ctr : (s.setDraws v).ctr = s.ctr := rfl
@[simp] theorem State.setDraws_lat : (s.setDraws v).lat = s.lat := rfl
@[simp] theorem State.setDraws_lon : (s.setDraws v).lon = s.lon := rfl
@[simp] theorem State.setDraws_af : (s.setDraws v).af = s.af := rfl
@[simp] theorem State.setDraws_alt : (s.setDraws v).alt = s.alt := rfl
@[simp] theorem State.setDraws_n : (s.setDraws v).n = s.n := rfl
@[simp] theorem State.setDraws_d : (s.setDraws v).d = s.d := rfl
@[simp] theorem State.setDraws_dlen : (s.setDraws v).dlen = s.dlen := rfl
@[simp] theorem State.setDraws_p : (s.setDraws v).p = s.p := rfl
@[simp] theorem State.setDraws_plen : (s.setDraws v).plen = s.plen := rfl
@[simp] theorem State.setDraws_status : (s.setDraws v).status = s.status := rfl
@[simp] theorem State.setDraws_pending : (s.setDraws v).pending = s.pending := rfl
@[simp] theorem State.setDraws_replies : (s.setDraws v).replies = s.replies := rfl
@[simp] theorem State.setDraws_draws : (s.setDraws v).draws = v := rfl
end

/-! Setting the contents of one of the two buffers. -/

section
variable (b : Buf) (m : Memory) (s : State)
@[simp] theorem State.setMem_params : (s.setMem b m).params = s.params := by cases b <;> rfl
@[simp] theorem State.setMem_key : (s.setMem b m).key = s.key := by cases b <;> rfl
@[simp] theorem State.setMem_devid : (s.setMem b m).devid = s.devid := by cases b <;> rfl
@[simp] theorem State.setMem_ctr : (s.setMem b m).ctr = s.ctr := by cases b <;> rfl
@[simp] theorem State.setMem_lat : (s.setMem b m).lat = s.lat := by cases b <;> rfl
@[simp] theorem State.setMem_lon : (s.setMem b m).lon = s.lon := by cases b <;> rfl
@[simp] theorem State.setMem_af : (s.setMem b m).af = s.af := by cases b <;> rfl
@[simp] theorem State.setMem_alt : (s.setMem b m).alt = s.alt := by cases b <;> rfl
@[simp] theorem State.setMem_n : (s.setMem b m).n = s.n := by cases b <;> rfl
@[simp] theorem State.setMem_dlen : (s.setMem b m).dlen = s.dlen := by cases b <;> rfl
@[simp] theorem State.setMem_plen : (s.setMem b m).plen = s.plen := by cases b <;> rfl
@[simp] theorem State.setMem_status : (s.setMem b m).status = s.status := by cases b <;> rfl
@[simp] theorem State.setMem_pending : (s.setMem b m).pending = s.pending := by cases b <;> rfl
@[simp] theorem State.setMem_replies : (s.setMem b m).replies = s.replies := by cases b <;> rfl
@[simp] theorem State.setMem_draws : (s.setMem b m).draws = s.draws := by cases b <;> rfl
@[simp] theorem State.setMem_mem_same : (s.setMem b m).mem b = m := by cases b <;> rfl
@[simp] theorem State.setMem_d_d : (s.setMem .d m).d = m := rfl
@[simp] theorem State.setMem_d_p : (s.setMem .d m).p = s.p := rfl
@[simp] theorem State.setMem_p_d : (s.setMem .p m).d = s.d := rfl
@[simp] theorem State.setMem_p_p : (s.setMem .p m).p = m := rfl
@[simp] theorem State.mem_d : s.mem .d = s.d := rfl
@[simp] theorem State.mem_p : s.mem .p = s.p := rfl
theorem capacity_d : capacity s.params .d = s.params.dcap.val := rfl
theorem capacity_p : capacity s.params .p = s.params.pcap.val := rfl
end

/-- A buffer's capacity fits in 8 bits (20_memory.md R50). -/
theorem capacity_lt (prm : Params) (b : Buf) : capacity prm b < 256 := by
  cases b
  · exact prm.dcap.isLt
  · exact prm.pcap.isLt

/-- Two states with equal fields are equal. -/
theorem State.ext_fields {s t : State} 
    (hparams : s.params = t.params) (hkey : s.key = t.key) (hdevid : s.devid = t.devid) (hctr : s.ctr = t.ctr) (hlat : s.lat = t.lat) (hlon : s.lon = t.lon) (haf : s.af = t.af) (halt : s.alt = t.alt) (hn : s.n = t.n) (hd : s.d = t.d) (hdlen : s.dlen = t.dlen) (hp : s.p = t.p) (hplen : s.plen = t.plen) (hstatus : s.status = t.status) (hpending : s.pending = t.pending) (hreplies : s.replies = t.replies) (hdraws : s.draws = t.draws) : s = t := by
  cases s; cases t; simp_all

end Sys2Proof.Machine
end

