-- ==== Sys2Proof/Laws/Memory.lean ====
section
/-! SUPPORT. The laws of a buffer's contents: read after write, the canonical form, the capacity, and that equal readings
in canonical form are equal data. -/

namespace Sys2Proof.Machine

@[simp] theorem Memory.read_nil (a : Nat) : Memory.read [] a = unlistedByte := rfl

theorem Memory.read_cons (k : Nat) (v : Byte) (rest : Memory) (a : Nat) :
    Memory.read ((k, v) :: rest) a = if k = a then v else Memory.read rest a := rfl

/-- The canonical form, opened at the first listed offset. -/
theorem Memory.wf_cons {k : Nat} {v : Byte} {rest : Memory} :
    Memory.wf ((k, v) :: rest) = true ↔
      v ≠ unlistedByte ∧ (∀ c ∈ rest, k < c.1) ∧ Memory.wf rest = true := by
  simp only [Memory.wf, Bool.and_eq_true, decide_eq_true_eq, List.all_eq_true, and_assoc]

/-- An offset below every listed one reads as unlisted. -/
theorem Memory.read_of_lt {m : Memory} {a : Nat} (h : ∀ c ∈ m, a < c.1) : m.read a = unlistedByte := by
  induction m with
  | nil => rfl
  | cons c rest ih =>
    obtain ⟨k, v⟩ := c
    have hk : a < k := h (k, v) (by simp)
    rw [Memory.read_cons, if_neg (by omega)]
    exact ih fun c hc => h c (by simp [hc])

/-- Reading an offset just written gives the byte written; every other offset reads as before. -/
theorem Memory.read_write {m : Memory} (hm : m.wf = true) (a : Nat) (b : Byte) (x : Nat) :
    (m.write a b).read x = if x = a then b else m.read x := by
  induction m with
  | nil =>
    by_cases hb : b = unlistedByte
    · simp [Memory.write, hb]
    · simp only [Memory.write, hb, if_false, Memory.read_cons, Memory.read_nil]
      by_cases hx : x = a
      · simp [hx]
      · simp [hx, Ne.symm hx]
  | cons c rest ih =>
    obtain ⟨k, v⟩ := c
    obtain ⟨hv, hlt, hw⟩ := Memory.wf_cons.mp hm
    have ih := ih hw
    by_cases h1 : a < k
    · have hlow : Memory.read ((k, v) :: rest) a = unlistedByte := by
        apply Memory.read_of_lt
        intro c hc
        rcases List.mem_cons.mp hc with rfl | hc
        · exact h1
        · exact lt_trans h1 (hlt c hc)
      by_cases hb : b = unlistedByte
      · simp only [Memory.write, h1, hb, if_true]
        by_cases hx : x = a
        · simp [hx, hlow]
        · simp [hx]
      · simp only [Memory.write, h1, hb, if_true, if_false]
        rw [Memory.read_cons]
        by_cases hx : x = a
        · simp [hx]
        · simp [hx, Ne.symm hx]
    · by_cases h2 : a = k
      · subst h2
        have hlow : Memory.read rest a = unlistedByte := Memory.read_of_lt hlt
        by_cases hb : b = unlistedByte
        · simp only [Memory.write, lt_irrefl, hb, if_true, if_false]
          rw [Memory.read_cons]
          by_cases hx : x = a
          · simp [hx, hlow]
          · simp [hx, Ne.symm hx]
        · simp only [Memory.write, lt_irrefl, hb, if_true, if_false]
          rw [Memory.read_cons, Memory.read_cons]
          by_cases hx : x = a
          · simp [hx]
          · simp [hx, Ne.symm hx]
      · simp only [Memory.write, h1, h2, if_false]
        rw [Memory.read_cons, Memory.read_cons, ih]
        by_cases hx : x = a
        · have : k ≠ a := fun h => h2 h.symm
          simp [hx, this]
        · simp [hx]

/-- Every offset listed after a write was listed before or is the one written. -/
theorem Memory.mem_write {m : Memory} {a : Nat} {b : Byte} {c : Host.Cell} (h : c ∈ m.write a b) :
    c ∈ m ∨ c.1 = a := by
  induction m with
  | nil =>
    by_cases hb : b = unlistedByte
    · simp [Memory.write, hb] at h
    · simp [Memory.write, hb] at h
      simp [h]
  | cons d rest ih =>
    obtain ⟨k, v⟩ := d
    simp only [Memory.write] at h
    split at h
    · split at h
      · exact .inl h
      · rcases List.mem_cons.mp h with rfl | h
        · exact .inr rfl
        · exact .inl h
    · split at h
      · split at h
        · exact .inl (List.mem_cons_of_mem _ h)
        · rcases List.mem_cons.mp h with rfl | h
          · exact .inr (by simp_all)
          · exact .inl (List.mem_cons_of_mem _ h)
      · rcases List.mem_cons.mp h with rfl | h
        · exact .inl (by simp)
        · rcases ih h with h | h
          · exact .inl (List.mem_cons_of_mem _ h)
          · exact .inr h

/-- A write keeps the canonical form. -/
theorem Memory.write_wf {m : Memory} (hm : m.wf = true) (a : Nat) (b : Byte) : (m.write a b).wf = true := by
  induction m with
  | nil =>
    by_cases hb : b = unlistedByte
    · simp [Memory.write, hb, Memory.wf]
    · simp [Memory.write, hb, Memory.wf]
  | cons d rest ih =>
    obtain ⟨k, v⟩ := d
    obtain ⟨hv, hlt, hw⟩ := Memory.wf_cons.mp hm
    simp only [Memory.write]
    split
    · rename_i h1
      split
      · exact hm
      · rename_i hb
        refine Memory.wf_cons.mpr ⟨hb, ?_, hm⟩
        intro c hc
        rcases List.mem_cons.mp hc with rfl | hc
        · exact h1
        · exact lt_trans h1 (hlt c hc)
    · split
      · split
        · exact hw
        · rename_i hb
          exact Memory.wf_cons.mpr ⟨hb, hlt, hw⟩
      · refine Memory.wf_cons.mpr ⟨hv, ?_, ih hw⟩
        intro c hc
        rcases Memory.mem_write hc with hc | hc
        · exact hlt c hc
        · omega

theorem Memory.within_iff {m : Memory} {cap : Nat} : m.within cap = true ↔ ∀ c ∈ m, c.1 < cap := by
  simp only [Memory.within, List.all_eq_true, decide_eq_true_eq]

/-- A write below the capacity keeps every listed offset below it. -/
theorem Memory.write_within {m : Memory} {cap a : Nat} (hm : m.within cap = true) (ha : a < cap) (b : Byte) :
    (m.write a b).within cap = true := by
  rw [Memory.within_iff] at hm ⊢
  intro c hc
  rcases Memory.mem_write hc with h | h
  · exact hm c h
  · omega

/-- Writing a byte string keeps the canonical form. -/
theorem Memory.writeBytes_wf {m : Memory} (hm : m.wf = true) (off : Nat) (v : Bytes) :
    (m.writeBytes off v).wf = true := by
  induction v generalizing m off with
  | nil => exact hm
  | cons b rest ih => exact ih (Memory.write_wf hm off b) (off + 1)

/-- Writing a byte string that ends within the capacity keeps every listed offset below it. -/
theorem Memory.writeBytes_within {m : Memory} {cap off : Nat} {v : Bytes} (hm : m.within cap = true)
    (h : off + v.length ≤ cap) : (m.writeBytes off v).within cap = true := by
  induction v generalizing m off with
  | nil => exact hm
  | cons b rest ih =>
    simp only [List.length_cons] at h
    exact ih (Memory.write_within hm (by omega) b) (by omega)

/-- Reading after writing a byte string: its own bytes inside, as before outside. -/
theorem Memory.read_writeBytes {m : Memory} (hm : m.wf = true) (off : Nat) (v : Bytes) (x : Nat) :
    (m.writeBytes off v).read x =
      if off ≤ x ∧ x < off + v.length then v.getD (x - off) unlistedByte else m.read x := by
  induction v generalizing m off with
  | nil =>
    rw [if_neg (by simp only [List.length_nil]; omega)]
    rfl
  | cons b rest ih =>
    show ((m.write off b).writeBytes (off + 1) rest).read x = _
    rw [ih (Memory.write_wf hm off b) (off + 1), Memory.read_write hm]
    simp only [List.length_cons]
    by_cases h1 : off + 1 ≤ x ∧ x < off + 1 + rest.length
    · have hx : x - off = (x - (off + 1)) + 1 := by omega
      rw [if_pos h1, if_pos (by omega), hx, List.getD_cons_succ]
    · rw [if_neg h1]
      by_cases h2 : x = off
      · subst h2
        simp
      · rw [if_neg h2, if_neg (by omega)]

@[simp] theorem Memory.readBytes_length (m : Memory) (off n : Nat) : (m.readBytes off n).length = n := by
  simp [Memory.readBytes]

/-- Byte `i` of a read byte string. -/
theorem Memory.readBytes_getD (m : Memory) (off n i : Nat) (x : Byte) :
    (m.readBytes off n).getD i x = if i < n then m.read (off + i) else x := by
  by_cases h : i < n
  · simp [Memory.readBytes, h, List.getD_eq_getElem?_getD]
  · simp [Memory.readBytes, h, List.getD_eq_getElem?_getD]

/-- Reading depends only on the bytes read. -/
theorem Memory.readBytes_congr {m m' : Memory} {off n : Nat} (h : ∀ i, i < n → m.read (off + i) = m'.read (off + i)) :
    m.readBytes off n = m'.readBytes off n := by
  simp only [Memory.readBytes]
  exact List.map_congr_left fun i hi => h i (List.mem_range.mp hi)

/-- Reading back what was written. -/
theorem Memory.readBytes_writeBytes {m : Memory} (hm : m.wf = true) (off : Nat) (v : Bytes) :
    (m.writeBytes off v).readBytes off v.length = v := by
  apply List.ext_getElem
  · simp
  · intro i h1 h2
    simp [Memory.readBytes, Memory.read_writeBytes hm, h2]

/-- Two memories in canonical form that read alike are the same data. -/
theorem Memory.ext_read {m m' : Memory} (hm : m.wf = true) (hm' : m'.wf = true)
    (h : ∀ a, m.read a = m'.read a) : m = m' := by
  induction m generalizing m' with
  | nil =>
    cases m' with
    | nil => rfl
    | cons c rest =>
      obtain ⟨k, v⟩ := c
      have := h k
      rw [Memory.read_cons, if_pos rfl] at this
      exact absurd this.symm (Memory.wf_cons.mp hm').1
  | cons c rest ih =>
    obtain ⟨k, v⟩ := c
    obtain ⟨hv, hlt, hw⟩ := Memory.wf_cons.mp hm
    cases m' with
    | nil =>
      have := h k
      rw [Memory.read_cons, if_pos rfl] at this
      exact absurd this hv
    | cons c' rest' =>
      obtain ⟨k', v'⟩ := c'
      obtain ⟨hv', hlt', hw'⟩ := Memory.wf_cons.mp hm'
      have hk : k = k' := by
        rcases Nat.lt_trichotomy k k' with hlt2 | heq | hgt
        · have := h k
          rw [Memory.read_cons, if_pos rfl, Memory.read_cons, if_neg (by omega),
            Memory.read_of_lt fun c hc => lt_trans hlt2 (hlt' c hc)] at this
          exact absurd this hv
        · exact heq
        · have := h k'
          rw [Memory.read_cons, if_neg (by omega), Memory.read_of_lt fun c hc => lt_trans hgt (hlt c hc),
            Memory.read_cons, if_pos rfl] at this
          exact absurd this.symm hv'
      subst hk
      have hvv : v = v' := by
        have := h k
        rwa [Memory.read_cons, if_pos rfl, Memory.read_cons, if_pos rfl] at this
      subst hvv
      have : rest = rest' := by
        apply ih hw hw'
        intro a
        by_cases ha : k = a
        · subst ha
          rw [Memory.read_of_lt hlt, Memory.read_of_lt hlt']
        · have := h a
          rwa [Memory.read_cons, if_neg ha, Memory.read_cons, if_neg ha] at this
      rw [this]

end Sys2Proof.Machine
end

