-- ==== Sys2Proof/Laws/Operands.lean ====
section
/-! SUPPORT. What the operand forms and the six functions give: lengths, single bytes, and each function's answer. -/

namespace Sys2Proof.Machine

/-! Byte order. -/

@[simp] theorem le32_length (u : Word) : (le32 u).length = 4 := rfl
@[simp] theorem be64_length (u : DWord) : (be64 u).length = 8 := rfl

/-- Byte `k` of `le32 u` is bits `8k+7` to `8k`. -/
theorem le32_getD (u : Word) (k : Nat) (h : k < 4) (x : Byte) : (le32 u).getD k x = byteOf k u := by
  interval_cases k <;> rfl

/-- Byte `k` of `be64 u` is bits `63-8k` to `56-8k`. -/
theorem be64_getD (u : DWord) (k : Nat) (h : k < 8) (x : Byte) : (be64 u).getD k x = byteOf (7 - k) u := by
  interval_cases k <;> rfl

theorem byteOf_toNat {w : Nat} (k : Nat) (v : BitVec w) : (byteOf k v).toNat = v.toNat / 2 ^ (8 * k) % 256 := by
  simp [byteOf, BitVec.extractLsb'_toNat, Nat.shiftRight_eq_div_pow]

/-- The decode of the encode of a field is the field (30_encoding.md R87). -/
@[simp] theorem fromLe32_le32 (u : Word) : fromLe32 (le32 u) = u := by
  apply BitVec.eq_of_toNat_eq
  have hu := u.isLt
  simp only [fromLe32, byteAt, le32, List.getD_cons_zero, List.getD_cons_succ, byteOf_toNat, BitVec.toNat_ofNat]
  omega

/-- `from_be64` is the inverse of `be64` (00_scope.md R14). -/
@[simp] theorem fromBe64_be64 (u : DWord) : fromBe64 (be64 u) = u := by
  apply BitVec.eq_of_toNat_eq
  have hu := u.isLt
  simp only [fromBe64, natOfBe, be64, List.foldl_cons, List.foldl_nil, byteOf_toNat, BitVec.toNat_ofNat]
  omega

/-- `be64` as a number is the counter. -/
@[simp] theorem natOfBe_be64 (u : DWord) : natOfBe (be64 u) = u.toNat := by
  have hu := u.isLt
  simp only [natOfBe, be64, List.foldl_cons, List.foldl_nil, byteOf_toNat]
  omega

theorem le32_injective {u v : Word} (h : le32 u = le32 v) : u = v := by
  rw [← fromLe32_le32 u, h, fromLe32_le32]

theorem be64_injective {u v : DWord} (h : be64 u = be64 v) : u = v := by
  rw [← fromBe64_be64 u, h, fromBe64_be64]

/-- A byte of the assembled word is the byte it came from (30_encoding.md R87). -/
theorem byteOf_fromLe32 (b : Bytes) (k : Nat) (h : k < 4) : byteOf k (fromLe32 b) = byteAt b k := by
  apply BitVec.eq_of_toNat_eq
  rw [byteOf_toNat]
  have h0 := (byteAt b 0).isLt
  have h1 := (byteAt b 1).isLt
  have h2 := (byteAt b 2).isLt
  have h3 := (byteAt b 3).isLt
  simp only [fromLe32, BitVec.toNat_ofNat]
  interval_cases k <;> omega

@[simp] theorem slice_length (b : Bytes) (i j : Nat) : (slice b i j).length = min (j - i) (b.length - i) := by
  simp [slice]

/-- Byte `k` of a slice. -/
theorem byteAt_slice (b : Bytes) (i j k : Nat) (h : k < j - i) : byteAt (slice b i j) k = byteAt b (i + k) := by
  simp [slice, byteAt, List.getD_eq_getElem?_getD, h]

/-- Byte `i` of the nonce register. -/
theorem nonceOfBytes_getElem (b : Bytes) (i : Nat) (h : i < 12) : (nonceOfBytes b)[i] = byteAt b i := by
  simp [nonceOfBytes]

/-- A 12-byte string is what the nonce register then holds. -/
theorem nonceOfBytes_toList {b : Bytes} (h : b.length = 12) : (nonceOfBytes b).toList = b := by
  apply List.ext_getElem
  · simp [h]
  · intro i h1 h2
    simp [nonceOfBytes, byteAt, List.getD_eq_getElem?_getD, h2]

/-- The nonce register put back from its own bytes. -/
@[simp] theorem nonceOfBytes_of_toList (v : Vector Byte 12) : nonceOfBytes v.toList = v := by
  apply Vector.toList_inj.mp
  exact nonceOfBytes_toList (by simp)

/-! The codec. -/

theorem serializedLength_bounds (c : Coord) : serializedLength c = 9 ∨ serializedLength c = 13 := by
  unfold serializedLength
  split
  · exact .inr rfl
  · exact .inl rfl

@[simp] theorem serializedBytes_length (c : Coord) : (serializedBytes c).length = serializedLength c := by
  obtain ⟨lat, lon, alt⟩ := c
  cases alt <;> rfl

/-- All that serialize can answer. -/
theorem serialize_cases (c : Coord) (cap : Nat) :
    (cap < serializedLength c ∧ serialize c cap = .error .bufferTooSmall) ∨
    (serializedLength c ≤ cap ∧ serialize c cap = .ok (serializedBytes c)) := by
  by_cases h : cap < serializedLength c
  · exact .inl ⟨h, by simp [serialize, h]⟩
  · exact .inr ⟨by omega, by simp [serialize, h]⟩

/-- The flag bytes 0 and 1 mean the same under every policy (30_encoding.md R88). -/
@[simp] theorem flagPresent_flagByte (policy : FlagPolicy) (b : Bool) : flagPresent policy (flagByte b) = .ok b := by
  cases b <;> rfl

/-- The only error of the flag byte is `MalformedPlaintext`, for a reserved value under the policy `reject`. -/
theorem flagPresent_error {policy : FlagPolicy} {flag : Byte} {e : CmdError} (h : flagPresent policy flag = .error e) :
    e = .malformedPlaintext ∧ policy = .reject ∧ flag ≠ 0x00#8 ∧ flag ≠ 0x01#8 := by
  unfold flagPresent at h
  split at h
  · cases h
  · split at h
    · cases h
    · cases policy <;> simp_all

/-- deserialize has one error (40_coordinate_codec.md R114). -/
theorem deserialize_error {policy : FlagPolicy} {b : Bytes} {e : CmdError} (h : deserialize policy b = .error e) :
    e = .malformedPlaintext := by
  unfold deserialize at h
  split at h
  · simpa using h.symm
  · split at h
    · rename_i e' he
      cases h
      exact (flagPresent_error he).1
    · cases h
    · split at h
      · simpa using h.symm
      · cases h

/-! The datapath. -/

@[simp] theorem xorBytes_length (a b : Bytes) : (xorBytes a b).length = min a.length b.length := by
  simp [xorBytes]

/-- Exclusive or with one string twice (42_xor_datapath.md R163). -/
theorem xorBytes_self_inverse {a k : Bytes} (h : a.length = k.length) : xorBytes (xorBytes a k) k = a := by
  apply List.ext_getElem
  · simp [h]
  · intro i h1 h2
    simp [xorBytes]

@[simp] theorem chachaBlock_length (key nonce : Bytes) (j : Word) : (chachaBlock key nonce j).length = 64 := by
  simp [chachaBlock, List.length_flatMap]

/-- A block has `KS_BLOCK_LEN` bytes (41_keystream_generator.md R131). -/
@[simp] theorem ksBlock_length (ks : KsChoice) (key nonce : Bytes) (j : Nat) :
    (ksBlock ks key nonce j).length = ksBlockLen ks := by
  cases ks <;> simp [ksBlock, ksBlockLen]

theorem ksBlockLen_pos (ks : KsChoice) : 0 < ksBlockLen ks := by
  cases ks <;> simp [ksBlockLen]

/-- The length of `m` blocks laid end to end. -/
theorem blocks_length (ks : KsChoice) (key nonce : Bytes) (m : Nat) :
    ((List.range m).flatMap (ksBlock ks key nonce)).length = m * ksBlockLen ks := by
  simp [List.length_flatMap]

/-- `KS(key, nonce, n)` has `n` bytes. -/
@[simp] theorem keystream_length (ks : KsChoice) (key nonce : Bytes) (n : Nat) :
    (keystream ks key nonce n).length = n := by
  have hL := ksBlockLen_pos ks
  simp only [keystream, List.length_take, blocks_length]
  apply min_eq_left
  have := Nat.div_add_mod (n + ksBlockLen ks - 1) (ksBlockLen ks)
  have := Nat.mod_lt (n + ksBlockLen ks - 1) hL
  rw [Nat.mul_comm]
  omega

/-- Byte `i` of blocks laid end to end is byte `i mod L` of block `i div L`. -/
theorem blocks_getD (ks : KsChoice) (key nonce : Bytes) (m i : Nat) (h : i < m * ksBlockLen ks) (x : Byte) :
    ((List.range m).flatMap (ksBlock ks key nonce)).getD i x =
      (ksBlock ks key nonce (i / ksBlockLen ks)).getD (i % ksBlockLen ks) x := by
  have hL := ksBlockLen_pos ks
  induction m with
  | zero => omega
  | succ m ih =>
    rw [List.range_succ, List.flatMap_append]
    by_cases hi : i < m * ksBlockLen ks
    · rw [List.getD_append _ _ _ _ (by rw [blocks_length]; exact hi)]
      exact ih hi
    · have h1 : m * ksBlockLen ks ≤ i := by omega
      rw [List.getD_append_right _ _ _ _ (by rw [blocks_length]; exact h1), blocks_length]
      have hdiv : i / ksBlockLen ks = m := by
        apply Nat.div_eq_of_lt_le h1
        exact h
      have hmod : i % ksBlockLen ks = i - m * ksBlockLen ks := by
        have := Nat.div_add_mod i (ksBlockLen ks)
        rw [hdiv, Nat.mul_comm] at this
        omega
      simp [hdiv, hmod]

/-- All that apply can answer (42_xor_datapath.md R160, R164). -/
theorem apply_cases (ks : KsChoice) (key nonce data : Bytes) :
    (key.length ≠ 32 ∧ apply ks key nonce data = some (.error .invalidKey)) ∨
    (key.length = 32 ∧ nonce.length ≠ 12 ∧ apply ks key nonce data = some (.error .invalidNonce)) ∨
    (key.length = 32 ∧ nonce.length = 12 ∧ ksInitOk ks key nonce = false ∧
      apply ks key nonce data = some (.error .cipherError)) ∨
    (key.length = 32 ∧ nonce.length = 12 ∧ ksInitOk ks key nonce = true ∧ ksRoom ks < data.length ∧
      apply ks key nonce data = none) ∨
    (key.length = 32 ∧ nonce.length = 12 ∧ ksInitOk ks key nonce = true ∧ data.length ≤ ksRoom ks ∧
      apply ks key nonce data = some (.ok (xorBytes data (keystream ks key nonce data.length)))) := by
  by_cases h1 : key.length = 32
  · by_cases h2 : nonce.length = 12
    · cases h3 : ksInitOk ks key nonce
      · exact .inr (.inr (.inl ⟨h1, h2, rfl, by simp [apply, h1, h2, h3]⟩))
      · by_cases h4 : ksRoom ks < data.length
        · exact .inr (.inr (.inr (.inl ⟨h1, h2, rfl, h4, by simp [apply, h1, h2, h3, h4]⟩)))
        · exact .inr (.inr (.inr (.inr ⟨h1, h2, rfl, by omega, by simp [apply, h1, h2, h3, h4]⟩)))
    · exact .inr (.inl ⟨h1, h2, by simp [apply, h1, h2]⟩)
  · exact .inl ⟨h1, by simp [apply, h1]⟩

/-- The default keystream function can serve any 8-bit length (41_keystream_generator.md R143). -/
theorem chacha20_room : 2 ^ 38 = ksRoom .chacha20 := by
  simp [ksRoom, ksBlockLen, ksCtrBits]

/-! The framer. -/

/-- All that build_packet can answer (44_packet_framer.md R190). -/
theorem buildPacket_cases (nonce ciphertext : Bytes) (cap : Nat) :
    (cap < nonce.length + ciphertext.length ∧ buildPacket nonce ciphertext cap = .error .bufferTooSmall) ∨
    (nonce.length + ciphertext.length ≤ cap ∧
      buildPacket nonce ciphertext cap = .ok (nonce ++ ciphertext, nonce.length + ciphertext.length)) := by
  by_cases h : cap < nonce.length + ciphertext.length
  · exact .inl ⟨h, by simp [buildPacket, h]⟩
  · exact .inr ⟨by omega, by simp [buildPacket, h]⟩

/-- All that parse_packet can answer (44_packet_framer.md R192). -/
theorem parsePacket_cases (raw : Bytes) :
    (raw.length < 20 ∧ parsePacket raw = .error .packetTooShort) ∨
    (20 ≤ raw.length ∧ parsePacket raw = .ok (slice raw 0 12, slice raw 12 raw.length)) := by
  by_cases h : raw.length < 20
  · exact .inl ⟨h, by simp [parsePacket, minPkt, h]⟩
  · exact .inr ⟨by omega, by simp [parsePacket, minPkt, nonceLen, h]⟩

/-! The staged record. -/

@[simp] theorem putCoord_params (c : Coord) (s : State) : (putCoord c s).params = s.params := rfl
@[simp] theorem putCoord_key (c : Coord) (s : State) : (putCoord c s).key = s.key := rfl
@[simp] theorem putCoord_devid (c : Coord) (s : State) : (putCoord c s).devid = s.devid := rfl
@[simp] theorem putCoord_ctr (c : Coord) (s : State) : (putCoord c s).ctr = s.ctr := rfl
@[simp] theorem putCoord_n (c : Coord) (s : State) : (putCoord c s).n = s.n := rfl
@[simp] theorem putCoord_d (c : Coord) (s : State) : (putCoord c s).d = s.d := rfl
@[simp] theorem putCoord_dlen (c : Coord) (s : State) : (putCoord c s).dlen = s.dlen := rfl
@[simp] theorem putCoord_p (c : Coord) (s : State) : (putCoord c s).p = s.p := rfl
@[simp] theorem putCoord_plen (c : Coord) (s : State) : (putCoord c s).plen = s.plen := rfl
@[simp] theorem putCoord_status (c : Coord) (s : State) : (putCoord c s).status = s.status := rfl
@[simp] theorem putCoord_pending (c : Coord) (s : State) : (putCoord c s).pending = s.pending := rfl
@[simp] theorem putCoord_replies (c : Coord) (s : State) : (putCoord c s).replies = s.replies := rfl
@[simp] theorem putCoord_draws (c : Coord) (s : State) : (putCoord c s).draws = s.draws := rfl
@[simp] theorem putCoord_lat (c : Coord) (s : State) : (putCoord c s).lat = c.lat := rfl
@[simp] theorem putCoord_lon (c : Coord) (s : State) : (putCoord c s).lon = c.lon := rfl
@[simp] theorem putCoord_af (c : Coord) (s : State) : (putCoord c s).af = c.alt.isSome := rfl
@[simp] theorem putCoord_alt (c : Coord) (s : State) : (putCoord c s).alt = c.alt.getD 0#32 := rfl

@[simp] theorem stagedCoord_lat (s : State) : (stagedCoord s).lat = s.lat := rfl
@[simp] theorem stagedCoord_lon (s : State) : (stagedCoord s).lon = s.lon := rfl

/-- The altitude of the staged record: present exactly while `AF` is 1. -/
theorem stagedCoord_alt (s : State) : (stagedCoord s).alt = if s.af = true then some s.alt else none := by
  cases h : s.af <;> simp [stagedCoord, h]

@[simp] theorem stagedCoord_alt_isSome (s : State) : (stagedCoord s).alt.isSome = s.af := by
  cases h : s.af <;> simp [stagedCoord, h]

end Sys2Proof.Machine
end

