-- ==== Sys2Proof/Laws/Exec.lean ====
section
/-! SUPPORT. All that each shared operation, each command and each port item can answer, said once. -/

namespace Sys2Proof.Machine

@[simp] theorem raise_eq (e : CmdError) (s : State) : raise e s = .next (s.setStatus e.code) := rfl
@[simp] theorem succeed_eq (s : State) : succeed s = .next (s.setStatus 0#8) := rfl

/-- `MemRead` inside the capacity. -/
theorem withRead_of_le {b : Buf} {off n : Nat} {s : State} (h : off + n ≤ capacity s.params b) (k : Bytes → Result) :
    withRead b off n s k = k ((s.mem b).readBytes off n) := by
  simp [withRead, memRead, h]

/-- `MemRead` outside the capacity. -/
theorem withRead_of_lt {b : Buf} {off n : Nat} {s : State} (h : capacity s.params b < off + n) (k : Bytes → Result) :
    withRead b off n s k = .fault (.outsideBuffer b) := by
  simp [withRead, memRead, Nat.not_le.mpr h]

/-- `MemWrite` inside the capacity. -/
theorem withWrite_of_le {b : Buf} {off : Nat} {v : Bytes} {s : State} (h : off + v.length ≤ capacity s.params b)
    (k : State → Result) : withWrite b off v s k = k (s.setMem b ((s.mem b).writeBytes off v)) := by
  simp [withWrite, memWrite, h]

/-- All that `SER` can answer. -/
theorem execSer_cases (s : State) :
    (capacity s.params .d < serializedLength (stagedCoord s) ∧ execSer s = .next (s.setStatus 1#8)) ∨
    (serializedLength (stagedCoord s) ≤ capacity s.params .d ∧
      execSer s = .next (((s.setD (s.d.writeBytes 0 (serializedBytes (stagedCoord s)))).setDlen
        (BitVec.ofNat 8 (serializedLength (stagedCoord s)))).setStatus 0#8)) := by
  rcases serialize_cases (stagedCoord s) (capacity s.params .d) with ⟨h, he⟩ | ⟨h, he⟩
  · exact .inl ⟨h, by simp [execSer, he, CmdError.code]⟩
  · refine .inr ⟨h, ?_⟩
    simp only [execSer, he]
    rw [withWrite_of_le (by simpa using h)]
    simp [State.setMem]

/-- All that `DES` can answer. -/
theorem execDes_cases (s : State) :
    (capacity s.params .d < s.dlen.toNat ∧ execDes s = .fault (.outsideBuffer .d)) ∨
    (s.dlen.toNat ≤ capacity s.params .d ∧
      ((deserialize s.params.flagPolicy (s.d.readBytes 0 s.dlen.toNat) = .error .malformedPlaintext ∧
          execDes s = .next (s.setStatus 2#8)) ∨
        ∃ c, deserialize s.params.flagPolicy (s.d.readBytes 0 s.dlen.toNat) = .ok c ∧
          execDes s = .next ((putCoord c s).setStatus 0#8))) := by
  by_cases h : s.dlen.toNat ≤ capacity s.params .d
  · refine .inr ⟨h, ?_⟩
    have hr := withRead_of_le (b := .d) (off := 0) (n := s.dlen.toNat) (s := s) (by omega)
    simp only [execDes, hr, State.mem_d]
    cases hd : deserialize s.params.flagPolicy (s.d.readBytes 0 s.dlen.toNat) with
    | error e =>
      have := deserialize_error hd
      subst this
      exact .inl ⟨rfl, rfl⟩
    | ok c => exact .inr ⟨c, rfl, rfl⟩
  · exact .inl ⟨by omega, withRead_of_lt (by omega) _⟩

/-- All that `APPLY` can answer. -/
theorem execApply_cases (s : State) :
    (capacity s.params .d < s.dlen.toNat ∧ execApply s = .fault (.outsideBuffer .d)) ∨
    (s.dlen.toNat ≤ capacity s.params .d ∧
      ((ksInitOk s.params.ks s.key.toList s.n.toList = false ∧ execApply s = .next (s.setStatus 5#8)) ∨
        (ksInitOk s.params.ks s.key.toList s.n.toList = true ∧ ksRoom s.params.ks < s.dlen.toNat ∧
          execApply s = .refused .keystreamExhausted) ∨
        (ksInitOk s.params.ks s.key.toList s.n.toList = true ∧ s.dlen.toNat ≤ ksRoom s.params.ks ∧
          execApply s = .next ((s.setD (s.d.writeBytes 0 (xorBytes (s.d.readBytes 0 s.dlen.toNat)
            (keystream s.params.ks s.key.toList s.n.toList s.dlen.toNat)))).setStatus 0#8)))) := by
  by_cases h : s.dlen.toNat ≤ capacity s.params .d
  · refine .inr ⟨h, ?_⟩
    have hr := withRead_of_le (b := .d) (off := 0) (n := s.dlen.toNat) (s := s) (by omega)
    simp only [execApply, hr, State.mem_d]
    rcases apply_cases s.params.ks s.key.toList s.n.toList (s.d.readBytes 0 s.dlen.toNat) with
      ⟨h1, _⟩ | ⟨_, h1, _⟩ | ⟨_, _, h1, he⟩ | ⟨_, _, h1, h2, he⟩ | ⟨_, _, h1, h2, he⟩
    · simp at h1
    · simp at h1
    · exact .inl ⟨h1, by simp [he, CmdError.code]⟩
    · exact .inr (.inl ⟨h1, by simpa using h2, by simp [he]⟩)
    · refine .inr (.inr ⟨h1, by simpa using h2, ?_⟩)
      simp only [he]
      rw [withWrite_of_le (by simpa using h)]
      simp [State.setMem]
  · exact .inl ⟨by omega, withRead_of_lt (by omega) _⟩

/-- What `NEXTN` answers. -/
theorem execNextn_eq (s : State) :
    execNextn s = .next (((s.setN (nonceOfBytes (s.devid.toList ++ be64 s.ctr))).setCtr (s.ctr + 1#64)).setStatus 0#8) :=
  rfl

/-- All that `BUILD` can answer. -/
theorem execBuild_cases (s : State) :
    (capacity s.params .d < s.dlen.toNat ∧ execBuild s = .fault (.outsideBuffer .d)) ∨
    (s.dlen.toNat ≤ capacity s.params .d ∧
      ((capacity s.params .p < 12 + s.dlen.toNat ∧ execBuild s = .next (s.setStatus 1#8)) ∨
        (12 + s.dlen.toNat ≤ capacity s.params .p ∧
          execBuild s = .next (((s.setP (s.p.writeBytes 0 (s.n.toList ++ s.d.readBytes 0 s.dlen.toNat))).setPlen
            (BitVec.ofNat 8 (12 + s.dlen.toNat))).setStatus 0#8)))) := by
  by_cases h : s.dlen.toNat ≤ capacity s.params .d
  · refine .inr ⟨h, ?_⟩
    have hr := withRead_of_le (b := .d) (off := 0) (n := s.dlen.toNat) (s := s) (by omega)
    simp only [execBuild, hr, State.mem_d]
    rcases buildPacket_cases s.n.toList (s.d.readBytes 0 s.dlen.toNat) (capacity s.params .p) with ⟨h1, he⟩ | ⟨h1, he⟩
    · exact .inl ⟨by simpa using h1, by simp [he, CmdError.code]⟩
    · refine .inr ⟨by simpa using h1, ?_⟩
      simp only [he]
      rw [withWrite_of_le (by simpa using h1)]
      simp [State.setMem]
  · exact .inl ⟨by omega, withRead_of_lt (by omega) _⟩

/-- All that `PARSE` can answer. -/
theorem execParse_cases (s : State) :
    (capacity s.params .p < s.plen.toNat ∧ execParse s = .fault (.outsideBuffer .p)) ∨
    (s.plen.toNat ≤ capacity s.params .p ∧
      ((s.plen.toNat < 20 ∧ execParse s = .next (s.setStatus 6#8)) ∨
        (20 ≤ s.plen.toNat ∧ capacity s.params .d < s.plen.toNat - 12 ∧ execParse s = .next (s.setStatus 1#8)) ∨
        (20 ≤ s.plen.toNat ∧ s.plen.toNat - 12 ≤ capacity s.params .d ∧
          execParse s = .next ((((s.setD (s.d.writeBytes 0 (slice (s.p.readBytes 0 s.plen.toNat) 12 s.plen.toNat))).setN
            (nonceOfBytes (slice (s.p.readBytes 0 s.plen.toNat) 0 12))).setDlen
              (BitVec.ofNat 8 (s.plen.toNat - 12))).setStatus 0#8)))) := by
  by_cases h : s.plen.toNat ≤ capacity s.params .p
  · refine .inr ⟨h, ?_⟩
    have hr := withRead_of_le (b := .p) (off := 0) (n := s.plen.toNat) (s := s) (by omega)
    simp only [execParse, hr, State.mem_p]
    rcases parsePacket_cases (s.p.readBytes 0 s.plen.toNat) with ⟨h1, he⟩ | ⟨h1, he⟩
    · exact .inl ⟨by simpa using h1, by simp [he, CmdError.code]⟩
    · simp only [Memory.readBytes_length] at h1 he
      simp only [he, slice_length, Memory.readBytes_length, min_self]
      by_cases h2 : capacity s.params .d < s.plen.toNat - 12
      · exact .inr (.inl ⟨h1, h2, by simp [h2, CmdError.code]⟩)
      · refine .inr (.inr ⟨h1, by omega, ?_⟩)
        rw [if_neg h2, withWrite_of_le (by simp; omega)]
        simp [State.setMem]
  · exact .inl ⟨by omega, withRead_of_lt (by omega) _⟩

/-! The port. -/

/-- Issuing the code of a command runs the command. -/
theorem issue_of_decode {code : Byte} {i : Instr} (h : decodeCode code = .ok i) (s : State) : issue code s = exec i s := by
  simp [issue, h]

/-- With nothing asked for, a step changes nothing. -/
theorem step_idle {s : State} (h : s.pending = []) : step s = .next s := by
  simp [step, h]

/-- A step performs the first item of the host's list. -/
theorem step_cons {s : State} {item : PortItem} {rest : List PortItem} (h : s.pending = item :: rest) :
    step s = performItem item (s.setPending rest) := by
  simp [step, h]

/-- All that a length write can answer. -/
theorem hostWriteLength_cases (b : Buf) (v : Nat) (s : State) :
    (capacity s.params b < v ∧ hostWriteLength b v s = .next s) ∨
    (v ≤ capacity s.params b ∧ b = .d ∧ hostWriteLength b v s = .next (s.setDlen (BitVec.ofNat 8 v))) ∨
    (v ≤ capacity s.params b ∧ b = .p ∧ hostWriteLength b v s = .next (s.setPlen (BitVec.ofNat 8 v))) := by
  by_cases h : v ≤ capacity s.params b
  · cases b
    · exact .inr (.inl ⟨h, rfl, by simp [hostWriteLength, h]⟩)
    · exact .inr (.inr ⟨h, rfl, by simp [hostWriteLength, h]⟩)
  · exact .inl ⟨by omega, by simp [hostWriteLength, h]⟩

/-- All that going on in a sequence does: the state itself, or the rest back at the front of the host's list. -/
theorem continueWhileOk_cases (a : HostAction) (rest : List HostAction) (s : State) :
    continueWhileOk a rest s = s ∨ continueWhileOk a rest s = s.setPending (.whileOk rest :: s.pending) := by
  unfold continueWhileOk
  split
  · exact .inl rfl
  · split
    · exact .inl rfl
    · exact .inr rfl

end Sys2Proof.Machine
end

