-- ==== Sys2Proof/Tests/Slice0.lean ====
section
/-! SUPPORT. Tests: the codes written out from 30_encoding.md R94, the checks of WellFormed, vectors of
95_test_vectors.md, and for every statement with hypotheses a state and operands that meet them. -/

namespace Sys2Proof.Tests

open Sys2Proof.Machine

set_option maxRecDepth 20000
set_option Elab.async false

/-! Helpers. -/

/-- `KEY_T` (00_scope.md R7). -/
def keyT : Vector Byte 32 := Vector.ofFn fun i => BitVec.ofNat 8 i.val

/-- `DEVID_T` (00_scope.md R7). -/
def devT : Vector Byte 4 := #v[0xa1#8, 0xb2#8, 0xc3#8, 0xd4#8]

/-- A machine with the constants of the vectors, as after reset. -/
def base : State := { State.reset with key := keyT, devid := devT }

/-- The parameters with other capacities. -/
def caps (d p : Fin 256) (s : State) : State := { s with params := { s.params with dcap := d, pcap := p } }

/-- The same machine with another keystream function. -/
def withKs (ks : KsChoice) (s : State) : State := { s with params := { s.params with ks := ks } }

/-- The same machine with another flag policy. -/
def withPolicy (f : FlagPolicy) (s : State) : State := { s with params := { s.params with flagPolicy := f } }

/-- `D` holds `bs` and `DLEN` is its length. -/
def withD (bs : Bytes) (s : State) : State := (s.setD (Memory.writeBytes [] 0 bs)).setDlen (BitVec.ofNat 8 bs.length)

/-- `P` holds `bs` and `PLEN` is its length. -/
def withP (bs : Bytes) (s : State) : State := (s.setP (Memory.writeBytes [] 0 bs)).setPlen (BitVec.ofNat 8 bs.length)

/-- The staged record. -/
def withRecord (lat lon : Int) (alt : Option Int) (s : State) : State :=
  putCoord { lat := wordOfI32 lat, lon := wordOfI32 lon, alt := alt.map wordOfI32 } s

/-- The next state, if there is one. -/
def nextOf : Result → Option State
  | .next t => some t
  | .fault _ => none
  | .refused _ => none

/-- There is a next state and `p` holds of it. -/
def goes (r : Result) (p : State → Bool) : Bool :=
  match r with
  | .next t => p t
  | .fault _ => false
  | .refused _ => false

/-- A next state that can be read off is the outcome. -/
theorem next_of_nextOf {r : Result} {t : State} (h : nextOf r = some t) : r = .next t := by
  cases r <;> simp_all [nextOf]

/-- A computation that goes on has a next state with the property. -/
theorem exists_of_goes {r : Result} {p : State → Bool} (h : goes r p = true) : ∃ t, r = .next t ∧ p t = true := by
  cases r with
  | next t => exact ⟨t, rfl, h⟩
  | fault f => cases h
  | refused f => cases h

/-- The plaintext of T-C1. -/
def plain9 : Bytes := [0x81#8, 0xab#8, 0x69#8, 0x1c#8, 0x54#8, 0x3e#8, 0x15#8, 0xb7#8, 0x00#8]
/-- The plaintext of T-C2. -/
def plain13 : Bytes := [0x81#8, 0xab#8, 0x69#8, 0x1c#8, 0x54#8, 0x3e#8, 0x15#8, 0xb7#8, 0x01#8, 0x40#8, 0xe2#8, 0x01#8, 0x00#8]
/-- The ciphertext of T-X1. -/
def cipher9 : Bytes := [0xb3#8, 0x12#8, 0x54#8, 0xad#8, 0x69#8, 0x4e#8, 0x3b#8, 0x17#8, 0x39#8]
/-- The first nonce of a `DEVID_T` device (T-N1). -/
def nonce0 : Bytes := [0xa1#8, 0xb2#8, 0xc3#8, 0xd4#8, 0#8, 0#8, 0#8, 0#8, 0#8, 0#8, 0#8, 0#8]
/-- The packet of T-F1. -/
def packet21 : Bytes := nonce0 ++ cipher9
/-- A keystream function that refuses `KEY_T` with the nonce of twelve zeros, and serves one byte. -/
def tinyKs : KsChoice :=
  .other { id := 0, blockLenPred := 0, ctrBits := 0, refuses := [(keyT.toList, List.replicate 12 0#8)] }

/-! Decoding (30_encoding.md R94, R96): the words are written out from the table. -/

theorem test_decode_ser : decode [0b00000001#8, 0xff#8] = .ok (.ser, [0xff#8]) := by decide
theorem test_decode_des : decode [0b00000010#8] = .ok (.des, []) := by decide
theorem test_decode_apply : decode [0b00000011#8] = .ok (.apply, []) := by decide
theorem test_decode_nextn : decode [0b00000100#8] = .ok (.nextn, []) := by decide
theorem test_decode_build : decode [0b00000101#8] = .ok (.build, []) := by decide
theorem test_decode_parse : decode [0b00000110#8] = .ok (.parse, []) := by decide
theorem test_decode_unassigned : decode [0x00#8] = .error (.illegalCommand 0x00#8) ∧
    decode [0x07#8] = .error (.illegalCommand 0x07#8) ∧ decode [0xff#8] = .error (.illegalCommand 0xff#8) ∧
    decode [] = .error .noByte := by decide
theorem test_decode_all_bits : decode [0x81#8] = .error (.illegalCommand 0x81#8) ∧
    decode [0x41#8] = .error (.illegalCommand 0x41#8) := by decide

/-! WellFormed: each check refuses an ill-formed term and accepts the last well-formed one. -/

theorem test_wf_readByte : HostAction.wellFormed Config.suggestedParams (.readByte .d 243) = false ∧
    HostAction.wellFormed Config.suggestedParams (.readByte .d 242) = true := by decide
theorem test_wf_writeByte : HostAction.wellFormed Config.suggestedParams (.writeByte .p 255 0#8) = false ∧
    HostAction.wellFormed Config.suggestedParams (.writeByte .p 254 0#8) = true := by decide
theorem test_wf_writeN : HostAction.wellFormed Config.suggestedParams (.writeN 12 0#8) = false ∧
    HostAction.wellFormed Config.suggestedParams (.writeN 11 0#8) = true := by decide
theorem test_wf_item : PortItem.wellFormed Config.suggestedParams (.whileOk [.issue 0x01#8, .writeN 12 0#8]) = false ∧
    PortItem.wellFormed Config.suggestedParams (.act (.readByte .p 255)) = false ∧
    PortItem.wellFormed Config.suggestedParams encryptItem = true := by decide

/-! Vectors of 95_test_vectors.md. -/

/-- T-C2, and T-C4 for the extreme values. -/
theorem test_ser : goes (exec .ser (withRecord 476687233 (-1223344556) (some 123456) base))
      (fun t => t.d.readBytes 0 13 == plain13 && t.dlen == 13#8 && t.status == 0#8) = true ∧
    serialize { lat := wordOfI32 (-2147483648), lon := wordOfI32 2147483647, alt := some (wordOfI32 (-1)) } 13 =
      .ok [0#8, 0#8, 0#8, 0x80#8, 0xff#8, 0xff#8, 0xff#8, 0x7f#8, 1#8, 0xff#8, 0xff#8, 0xff#8, 0xff#8] := by
  decide +kernel

/-- T-C17: `DCAP = 9` and `AF = 1`. -/
theorem test_ser_too_small : goes (exec .ser (caps 9 255 (withRecord 1 2 (some 3) base)))
    (fun t => t.status == 1#8 && t.d == [] && t.dlen == 0#8) = true := by decide +kernel

/-- T-C19: an absent altitude zeroes `ALT`; T-C18: a present one is read. -/
theorem test_des : goes (exec .des (withD plain9 (withRecord 0 0 (some 123456) base)))
      (fun t => i32OfWord t.lat == 476687233 && i32OfWord t.lon == -1223344556 && !t.af && t.alt == 0#32 &&
        t.status == 0#8) = true ∧
    goes (exec .des (withD plain13 base)) (fun t => t.af && t.alt == 123456#32) = true := by decide +kernel

/-- T-C15: flag 2 under the three policies. -/
theorem test_des_flag_policies :
    let b : Bytes := [1#8, 0#8, 0#8, 0#8, 2#8, 0#8, 0#8, 0#8, 2#8, 3#8, 0#8, 0#8, 0#8]
    deserialize .reject b = .error .malformedPlaintext ∧
    deserialize .nonzeroPresent b = .ok { lat := 1#32, lon := 2#32, alt := some 3#32 } ∧
    deserialize .absent b = .ok { lat := 1#32, lon := 2#32, alt := none } := by decide +kernel

/-- T-X1. -/
theorem test_apply : goes (exec .apply (withD plain9 (base.setN (nonceOfBytes nonce0))))
    (fun t => t.d.readBytes 0 9 == cipher9 && t.dlen == 9#8 && t.status == 0#8) = true := by decide +kernel

/-- T-X5: the second block begins at byte 64. -/
theorem test_apply_two_blocks : goes (exec .apply ((base.setN (nonceOfBytes nonce0)).setDlen 70#8))
    (fun t => t.d.read 0 == 0x32#8 && t.d.read 63 == 0xa7#8 && t.d.read 64 == 0xe5#8 && t.d.read 69 == 0xe4#8) = true := by
  decide +kernel

/-- T-N4. -/
theorem test_nextn : goes (exec .nextn (base.setCtr 256#64))
    (fun t => t.n.toList == [0xa1#8, 0xb2#8, 0xc3#8, 0xd4#8, 0#8, 0#8, 0#8, 0#8, 0#8, 0#8, 1#8, 0#8] && t.ctr == 257#64) =
      true := by decide +kernel

/-- T-N8: the wrap. -/
theorem test_nextn_wraps : goes (exec .nextn (base.setCtr 0xffffffffffffffff#64))
    (fun t => t.n.toList == [0xa1#8, 0xb2#8, 0xc3#8, 0xd4#8] ++ List.replicate 8 0xff#8 && t.ctr == 0#64) = true := by
  decide +kernel

/-- T-F1. -/
theorem test_build : goes (exec .build (withD cipher9 (base.setN (nonceOfBytes nonce0))))
    (fun t => t.p.readBytes 0 21 == packet21 && t.plen == 21#8 && t.status == 0#8) = true := by decide +kernel

/-- T-F9: `DLEN = 0`; T-F3: one byte short. -/
theorem test_build_edges : goes (exec .build (base.setN (nonceOfBytes nonce0)))
      (fun t => t.p.readBytes 0 12 == nonce0 && t.plen == 12#8) = true ∧
    goes (exec .build (caps 243 20 (withD cipher9 base))) (fun t => t.status == 1#8 && t.p == []) = true := by
  decide +kernel

/-- T-F4. -/
theorem test_parse : goes (exec .parse (withP packet21 base))
    (fun t => t.n.toList == nonce0 && t.d.readBytes 0 9 == cipher9 && t.dlen == 9#8 && t.status == 0#8) = true := by
  decide +kernel

/-- T-F10: the second check, and that the first comes first. -/
theorem test_parse_errors : goes (exec .parse ((caps 13 255 base).setPlen 30#8)) (fun t => t.status == 1#8) = true ∧
    goes (exec .parse ((caps 5 255 base).setPlen 19#8)) (fun t => t.status == 6#8) = true := by decide +kernel

/-- T-K1. -/
theorem test_quarter_round : quarterRound 0x11111111#32 0x01020304#32 0x9b8d6f43#32 0x01234567#32 =
    (0xea2a92f4#32, 0xcb1cf8ce#32, 0x4581472e#32, 0x5881c4bb#32) := by decide +kernel

/-- T-K2: the output words of the block function at counter 1. -/
theorem test_block_words : (chachaWords keyT.toList
      [0#8, 0#8, 0#8, 9#8, 0#8, 0#8, 0#8, 0x4a#8, 0#8, 0#8, 0#8, 0#8] 1#32).toList =
    [0xe4e7f110#32, 0x15593bd1#32, 0x1fdd0f50#32, 0xc47120a3#32, 0xc7f4d1c7#32, 0x0368c033#32, 0x9aaa2204#32,
     0x4e6cd4c3#32, 0x466482d2#32, 0x09aa9f07#32, 0x05d7c214#32, 0xa2028bd9#32, 0xd19c12b5#32, 0xb94e16de#32,
     0xe883d0cb#32, 0x4e3c50a2#32] := by decide +kernel

/-- T-P1: `ENCRYPT`, four commands. -/
theorem test_encrypt : goes (runSteps 4 ((withRecord 476687233 (-1223344556) none base).setPending [encryptItem]))
    (fun t => t.p.readBytes 0 21 == packet21 && t.plen == 21#8 && t.ctr == 1#64 && t.status == 0#8 &&
      t.pending == []) = true := by decide +kernel

/-- T-P7: flag 2 after `DECRYPT`, under `reject` and under `absent`. -/
theorem test_decrypt_flag :
    let pkt := packet21.set 20 0x3b#8
    goes (runSteps 3 ((withP pkt base).setPending [decryptItem])) (fun t => t.status == 2#8 && t.lat == 0#32) = true ∧
    goes (runSteps 3 ((withPolicy .absent (withP pkt base)).setPending [decryptItem]))
      (fun t => t.status == 0#8 && i32OfWord t.lat == 476687233 && !t.af) = true := by decide +kernel

/-- P5: an unassigned code changes `STATUS` alone. -/
theorem test_unassigned_code : goes (step (base.setPending [.act (.issue 0x07#8)])) (fun t => t == base.setStatus 7#8) = true := by
  decide +kernel

/-- 10_state.md R36: a length above the capacity is refused and nothing changes. -/
theorem test_length_write_refused :
    goes (step (base.setPending [.act (.writeDlen 244)])) (fun t => t == base) = true ∧
    goes (step (base.setPending [.act (.writeDlen 243)])) (fun t => t == base.setDlen 243#8) = true := by decide +kernel

/-- 30_encoding.md R99: the lines of a program become port items. -/
theorem test_program_items : programItems [.wrLat (-1), .op .ser, .wrN [7#8, 8#8], .rd .status] =
    [.act (.writeLat 0xffffffff#32), .act (.issue 0x01#8), .act (.writeN 0 7#8), .act (.writeN 1 8#8),
     .act (.readReg .status)] := by decide +kernel

/-! Witnesses: for each statement of Certificates/Slice0/Obligations.lean with hypotheses, a state and operands that meet
them together, at the boundary values of each clause. -/

/-- The invariant as a check. -/
def sound (s : State) : Bool :=
  decide (s.dlen.toNat ≤ capacity s.params .d) && decide (s.plen.toNat ≤ capacity s.params .p) && s.d.wf && s.p.wf &&
    s.d.within (capacity s.params .d) && s.p.within (capacity s.params .p) && decide (s.status.toNat ≤ 7)

/-- The check is the invariant. -/
theorem inv_of_sound {s : State} (h : sound s = true) : s.Inv := by
  simp only [sound, Bool.and_eq_true, decide_eq_true_eq] at h
  obtain ⟨⟨⟨⟨⟨⟨h1, h2⟩, h3⟩, h4⟩, h5⟩, h6⟩, h7⟩ := h
  exact ⟨h1, h2, h3, h4, h5, h6, h7⟩

/-- A state with 9 bytes in `D`, the packet of T-F1 in `P`, a record with altitude and a nonce. -/
def full : State := withD cipher9 (withP packet21 (withRecord 1 2 (some 3) (base.setN (nonceOfBytes nonce0))))

/-- A state with one item asked for. -/
def asked (item : PortItem) (s : State) : State := s.setPending [item]

/-- The next state of a computation that goes on. -/
theorem witness_next (r : Result) (h : (nextOf r).isSome = true) : ∃ t, r = .next t :=
  ⟨(nextOf r).get h, next_of_nextOf (Option.some_get h).symm⟩

theorem witness_DecodeEncodeAgree : decodeCode 0x01#8 = .ok .ser ∧ decodeCode 0x06#8 = .ok .parse ∧
    decode [0x06#8, 0xff#8] = .ok (.parse, [0xff#8]) := by decide

theorem witness_CommandStringsDecodeUniquely : (∀ i ∈ [Instr.ser, .parse], i.wellFormed = true) ∧
    decodeAll [0x01#8, 0x06#8] = .ok [.ser, .parse] ∧ 0x00#8 ∈ [0x01#8, 0x00#8] ∧ 0x07#8 ∈ [0x07#8] ∧ 0x07 ≤ (0x07#8).toNat ∧
    0xff#8 ∈ [0xff#8] ∧ 0x07 ≤ (0xff#8).toNat := by decide

theorem witness_StepRunsTheDecodedCommand :
    (asked (.act (.issue 0x01#8)) full).pending = .act (.issue 0x01#8) :: [] ∧ decodeCode 0x01#8 = .ok .ser ∧
    (asked (.whileOk [.issue 0x06#8]) full).pending = .whileOk (.issue 0x06#8 :: []) :: [] ∧
    decodeCode 0x06#8 = .ok .parse ∧ ∃ t, exec .parse ((asked (.whileOk [.issue 0x06#8]) full).setPending []) = .next t :=
  ⟨rfl, by decide, rfl, by decide, witness_next _ (by decide +kernel)⟩

theorem witness_PlacedCommandRunsNext : decodeTableWord 8 1 = some .ser ∧ decodeTableWord 8 6 = some .parse ∧
    base.pending = [] := by decide +kernel

theorem witness_UnassignedCodeOnlySetsStatus :
    (asked (.act (.issue 0x00#8)) full).pending = .act (.issue 0x00#8) :: [] ∧
    (asked (.act (.issue 0x07#8)) full).pending = .act (.issue 0x07#8) :: [] ∧ 0x07 ≤ (0x07#8).toNat ∧
    (asked (.act (.issue 0xff#8)) full).pending = .act (.issue 0xff#8) :: [] ∧ 0x07 ≤ (0xff#8).toNat := by decide +kernel

theorem witness_PseudoCommandsExpandAndStop :
    (asked encryptItem (caps 12 255 full)).pending =
      .whileOk (.issue 0x01#8 :: [.issue 0x04#8, .issue 0x03#8, .issue 0x05#8]) :: [] ∧
    ∃ t, step (asked encryptItem (caps 12 255 full)) = .next t ∧ (t.status != 0#8) = true :=
  ⟨rfl, exists_of_goes (by decide +kernel)⟩

theorem witness_HostReadsChangeNothing :
    (asked (.act (.readReg .ctr)) full).pending = .act (.readReg .ctr) :: [] ∧
    (asked (.act (.readByte .d 242)) full).pending = .act (.readByte .d 242) :: [] ∧ 242 < full.params.dcap.val ∧
    (asked (.act (.readByte .d 243)) full).pending = .act (.readByte .d 243) :: [] ∧ full.params.dcap.val ≤ 243 ∧
    (asked (.act (.readByte .p 254)) full).pending = .act (.readByte .p 254) :: [] ∧ 254 < full.params.pcap.val ∧
    (asked (.act (.readByte .p 255)) full).pending = .act (.readByte .p 255) :: [] ∧ full.params.pcap.val ≤ 255 := by
  decide +kernel

theorem witness_HostWritesTakeTheirValue :
    (asked (.act (.writeLat 5#32)) full).pending = .act (.writeLat 5#32) :: [] ∧
    (asked (.act (.writeLon 5#32)) full).pending = .act (.writeLon 5#32) :: [] ∧
    (asked (.act (.writeAlt 5#32)) full).pending = .act (.writeAlt 5#32) :: [] ∧
    (asked (.act (.writeAf true)) full).pending = .act (.writeAf true) :: [] ∧
    (asked (.act (.writeDlen 243)) full).pending = .act (.writeDlen 243) :: [] ∧ 243 ≤ full.params.dcap.val ∧
    (asked (.act (.writeDlen 244)) full).pending = .act (.writeDlen 244) :: [] ∧ full.params.dcap.val < 244 ∧
    (asked (.act (.writePlen 255)) full).pending = .act (.writePlen 255) :: [] ∧ 255 ≤ full.params.pcap.val ∧
    (asked (.act (.writePlen 256)) full).pending = .act (.writePlen 256) :: [] ∧ full.params.pcap.val < 256 ∧
    (asked (.act (.writeByte .d 242 0#8)) full).pending = .act (.writeByte .d 242 0#8) :: [] ∧ full.d.wf = true ∧
    242 < full.params.dcap.val ∧
    (asked (.act (.writeByte .p 254 9#8)) full).pending = .act (.writeByte .p 254 9#8) :: [] ∧ full.p.wf = true ∧
    254 < full.params.pcap.val ∧
    (asked (.act (.writeN 11 9#8)) full).pending = .act (.writeN 11 9#8) :: [] ∧ 11 < 12 := by decide +kernel

theorem witness_HostCannotWriteProtected :
    (asked (.act (.writeLat 5#32)) full).nextAction = some (.writeLat 5#32) ∧ (∀ code, HostAction.writeLat 5#32 ≠ .issue code) ∧
    HostAction.writeLat 5#32 ≠ .reset ∧ ∃ t, step (asked (.act (.writeLat 5#32)) full) = .next t :=
  ⟨rfl, (fun _ h => by cases h), by decide, witness_next _ (by decide +kernel)⟩

theorem witness_ResetEffect : (asked (.act .reset) full).pending = .act .reset :: [] ∧ 31 < 32 ∧ 3 < 4 := by decide +kernel

/-- The contents used by the witness below. -/
def someContents : Unspecified where
  lat := 1#32
  lon := 2#32
  af := true
  alt := 3#32
  n := nonceOfBytes nonce0
  d := plain13
  p := packet21

theorem witness_CommandsOnTheResetState :
    ksInitOk (full.afterReset someContents).params.ks full.key.toList someContents.n.toList = true ∧ 12 ≤ (full.afterReset someContents).params.pcap.val ∧
    (if someContents.af then 13 else 9) ≤ (full.afterReset someContents).params.dcap.val := by decide +kernel

theorem witness_SignedUnsignedBijection : (-2147483648 : Int) ≤ -2147483648 ∧ (2147483647 : Int) ≤ 2147483647 ∧
    (0 : Int) ≤ 0 ∧ (-1 : Int) < 0 ∧ 2 ^ 31 - 1 < 2 ^ 31 ∧ 2 ^ 31 ≤ 2 ^ 31 ∧ 2 ^ 32 - 1 < 2 ^ 32 := by decide

theorem witness_FieldEncodingIsExact : (slice plain9 0 4).length = 4 ∧ (-2147483648 : Int) ≤ -1 ∧ (-1 : Int) ≤ 2147483647 := by
  decide

theorem witness_CounterEncodingIsBigEndian : be64 7#64 = be64 7#64 ∧ (slice nonce0 4 12).length = 8 := by decide

theorem witness_SerWritesTheRecord : full.d.wf = true ∧
    (caps 12 255 full).params.dcap.val < (if (caps 12 255 full).af then 13 else 9) ∧
    (if (caps 13 255 full).af then 13 else 9) ≤ (caps 13 255 full).params.dcap.val ∧
    (caps 8 255 base).params.dcap.val < (if (caps 8 255 base).af then 13 else 9) ∧
    (if (caps 9 255 base).af then 13 else 9) ≤ (caps 9 255 base).params.dcap.val := by decide +kernel

theorem witness_AltIsNotReadWhileAbsent : base.af = false ∧ ∃ t, exec .ser base = .next t :=
  ⟨rfl, witness_next _ (by decide +kernel)⟩

/-- One witness for each of the five outcomes of `DES`: lengths 8, 9, 12 and 13, and flags 0, 1 and 2. -/
theorem witness_DesReadsTheRecord :
    let flag (n : Nat) (v : Byte) : State := withD ((plain13.set 8 v).take n) base
    (flag 8 0#8).dlen.toNat < 9 ∧
    (9 ≤ (flag 9 2#8).dlen.toNat ∧ 2 ≤ ((flag 9 2#8).d.read 8).toNat ∧ (flag 9 2#8).params.flagPolicy = .reject) ∧
    (9 ≤ (flag 9 0#8).dlen.toNat ∧ (flag 9 0#8).d.read 8 = 0x00#8) ∧
    (9 ≤ (flag 12 1#8).dlen.toNat ∧ (flag 12 1#8).dlen.toNat < 13 ∧ (flag 12 1#8).d.read 8 = 0x01#8) ∧
    (13 ≤ (flag 13 1#8).dlen.toNat ∧ (flag 13 1#8).d.read 8 = 0x01#8 ∧
      (flag 13 1#8).dlen.toNat ≤ (flag 13 1#8).params.dcap.val) ∧
    (13 ≤ (withPolicy .nonzeroPresent (flag 13 2#8)).dlen.toNat ∧
      2 ≤ ((withPolicy .nonzeroPresent (flag 13 2#8)).d.read 8).toNat) := by decide +kernel

theorem witness_CodecRoundTrip :
    (if (some 3#32 : Option Word).isSome then 13 else 9) ≤ 13 ∧
    deserialize .reject plain9 = .ok { lat := wordOfI32 476687233, lon := wordOfI32 (-1223344556), alt := none } ∧
    byteAt plain9 8 = 0x00#8 ∧
    deserialize .reject plain13 =
      .ok { lat := wordOfI32 476687233, lon := wordOfI32 (-1223344556), alt := some (wordOfI32 123456) } ∧
    byteAt plain13 8 = 0x01#8 ∧
    serialize { lat := 1#32, lon := 2#32, alt := none } 9 = .ok [1#8, 0#8, 0#8, 0#8, 2#8, 0#8, 0#8, 0#8, 0#8] ∧
    serialize { lat := 1#32, lon := 2#32, alt := none } 13 = .ok [1#8, 0#8, 0#8, 0#8, 2#8, 0#8, 0#8, 0#8, 0#8] := by
  decide +kernel

theorem witness_SurplusBytesIgnored : byteAt (plain9 ++ [0x62#8, 0x7b#8]) 8 = 0x00#8 ∧ 9 ≤ (plain9 ++ [0x62#8, 0x7b#8]).length ∧
    byteAt plain13 8 = 0x01#8 ∧ 13 ≤ plain13.length := by decide

theorem witness_RotationIsTheSpecsArithmetic : 0 < 1 ∧ 1 < 32 ∧ 0 < 31 ∧ 31 < 32 := by decide

theorem witness_CipherInitialState : keyT.toList.length = 32 ∧ nonce0.length = 12 ∧ 7 < 8 ∧ 2 < 3 ∧ 3 < 4 := by decide +kernel

theorem witness_BlockByteOrder : 15 < 16 ∧ 3 < 4 := by decide

theorem witness_KeystreamIsBlocksEndToEnd : 64 < 65 ∧ 64 ≤ 65 := by decide

theorem witness_ApplyChecksInOrder :
    ([] : Bytes).length ≠ 32 ∧ keyT.toList.length = 32 ∧ ([] : Bytes).length ≠ 12 ∧ (List.replicate 12 0#8).length = 12 ∧
    ksInitOk tinyKs keyT.toList (List.replicate 12 0#8) = false ∧
    nonce0.length = 12 ∧ ksInitOk tinyKs keyT.toList nonce0 = true ∧ [7#8].length ≤ ksRoom tinyKs ∧
    ksInitOk .chacha20 keyT.toList nonce0 = true ∧ plain9.length ≤ ksRoom .chacha20 := by decide +kernel

/-- The last data length the default serves and the first it does not, and the first that `tinyKs` does not. -/
theorem witness_ApplyStopsPastTheBlockCounter : keyT.toList.length = 32 ∧ nonce0.length = 12 ∧
    (List.replicate (2 ^ 38) 0#8).length ≤ 2 ^ 38 ∧ 2 ^ 38 < (List.replicate (2 ^ 38 + 1) 0#8).length ∧
    ksInitOk tinyKs keyT.toList nonce0 = true ∧ ksRoom tinyKs < [7#8, 8#8].length := by
  rw [List.length_replicate, List.length_replicate]
  decide +kernel

theorem witness_ApplyIsSelfInverse : keyT.toList.length = 32 ∧ nonce0.length = 12 ∧
    ksInitOk tinyKs keyT.toList nonce0 = true ∧ [7#8].length ≤ ksRoom tinyKs := by decide +kernel

/-- T-X8. -/
theorem witness_ApplyKeepsBitDifferences : apply .chacha20 keyT.toList nonce0 plain9 = some (.ok cipher9) ∧
    apply .chacha20 keyT.toList nonce0 [0xc4#8, 0xab#8, 0x69#8, 0x1c#8, 0x80#8, 0x40#8, 0x15#8, 0xb7#8, 0x00#8] =
      some (.ok [0xf6#8, 0x12#8, 0x54#8, 0xad#8, 0xbd#8, 0x30#8, 0x3b#8, 0x17#8, 0x39#8]) ∧
    8 < plain9.length := by decide +kernel

theorem witness_ApplyXorsTheKeystream : full.d.wf = true ∧ full.dlen.toNat ≤ full.params.dcap.val ∧
    full.params.ks = .chacha20 ∧ ((withKs tinyKs full).setDlen 1#8).cipherReady ∧
    ksInitOk (withKs tinyKs base).params.ks (withKs tinyKs base).key.toList (withKs tinyKs base).n.toList = false :=
  ⟨by decide +kernel, by decide +kernel, by decide +kernel, ⟨by decide +kernel, by decide +kernel⟩, by decide +kernel⟩

theorem witness_ApplyUnderTheDefaultCipher :
    full.d.wf = true ∧ full.dlen.toNat ≤ full.params.dcap.val ∧ full.params.ks = .chacha20 ∧
    ksInitOk (withKs tinyKs full).params.ks (withKs tinyKs full).key.toList (withKs tinyKs full).n.toList = true ∧
    ksRoom (withKs tinyKs full).params.ks < ((withKs tinyKs full).setDlen 2#8).dlen.toNat := by decide +kernel

theorem witness_NoncesIncreaseUntilTheWrap : (base.setCtr 0xfffffffffffffffe#64).ctr.toNat < 2 ^ 64 - 1 := by decide +kernel

theorem witness_OnlyNextnAndResetMoveCtr : ∃ t, step (asked encryptItem full) = .next t :=
  witness_next _ (by decide +kernel)

theorem witness_BuildFramesThePacket : full.p.wf = true ∧ full.dlen.toNat ≤ full.params.dcap.val ∧
    (caps 9 20 full).params.pcap.val < 12 + (caps 9 20 full).dlen.toNat ∧
    12 + (caps 9 21 full).dlen.toNat ≤ (caps 9 21 full).params.pcap.val ∧
    (caps 9 21 full).dlen.toNat ≤ (caps 9 21 full).params.dcap.val := by decide +kernel

theorem witness_ParseSplitsThePacket : full.d.wf = true ∧ full.plen.toNat ≤ full.params.pcap.val ∧
    (full.setPlen 19#8).plen.toNat < 20 ∧
    20 ≤ (full.setPlen 20#8).plen.toNat ∧ (caps 7 255 (full.setPlen 20#8)).params.dcap.val < 20 - 12 ∧
    20 - 12 ≤ (caps 8 255 (full.setPlen 20#8)).params.dcap.val := by decide +kernel

theorem witness_FramerInverseLaws : nonce0.length = 12 ∧ 8 ≤ (cipher9.take 8).length ∧
    nonce0.length + (cipher9.take 8).length ≤ 20 ∧ 20 ≤ (packet21.take 20).length ∧
    (nonce0.take 11).length ≠ 12 ∧ buildPacket (nonce0.take 11) cipher9 20 = .ok (nonce0.take 11 ++ cipher9, 20) := by
  decide +kernel

theorem witness_ParseAfterBuildChangesNothing : (full.setDlen 8#8).Inv ∧ 8 ≤ (full.setDlen 8#8).dlen.toNat ∧
    12 + (full.setDlen 8#8).dlen.toNat ≤ full.params.pcap.val :=
  ⟨inv_of_sound (by decide +kernel), by decide +kernel, by decide +kernel⟩

/-- T-F6. -/
theorem witness_ShortPacketsAreRejected : (packet21.take 19).length < 20 ∧ (packet21.take 20).length = 20 ∧
    parsePacket (packet21.take 20) = .ok (nonce0, cipher9.take 8) ∧
    apply .chacha20 keyT.toList nonce0 (cipher9.take 8) = some (.ok (plain9.take 8)) := by decide +kernel

theorem witness_ParseChecksNothingOfTheNonce : ∃ t, exec .parse full = .next t ∧ (t.status == 0#8) = true :=
  exists_of_goes (by decide +kernel)

theorem witness_FailureChangesOnlyStatus : ∃ t, exec .des full = .next t ∧ (t.status != 0#8) = true :=
  exists_of_goes (by decide +kernel)

theorem witness_StatusCodesOfEachCommand : (∃ t, exec .ser full = .next t) ∧ (∃ t, exec .des full = .next t) ∧
    (∃ t, exec .apply full = .next t) ∧ (∃ t, exec .nextn full = .next t) ∧ (∃ t, exec .build full = .next t) ∧
    ∃ t, exec .parse full = .next t :=
  ⟨witness_next _ (by decide +kernel), witness_next _ (by decide +kernel), witness_next _ (by decide +kernel),
    witness_next _ (by decide +kernel), witness_next _ (by decide +kernel), witness_next _ (by decide +kernel)⟩

theorem witness_RepeatedCommands : full.Inv ∧ full.cipherReady ∧ (∃ t, exec .ser full = .next t) ∧
    (∃ t, exec .des full = .next t) ∧ (∃ t, exec .build full = .next t) ∧ ∃ t, exec .parse full = .next t :=
  ⟨inv_of_sound (by decide +kernel), ⟨by decide +kernel, by decide +kernel⟩, witness_next _ (by decide +kernel),
    witness_next _ (by decide +kernel), witness_next _ (by decide +kernel), witness_next _ (by decide +kernel)⟩

/-- The two contents of each buffer differ at the first stale offset, 9 and 21. -/
theorem witness_StaleBytesDoNotMatter : full.d.wf = true ∧ full.p.wf = true ∧ (full.d.write 9 5#8).wf = true ∧
    (full.p.write 21 5#8).wf = true ∧ (∀ a, a < full.dlen.toNat → (full.d.write 9 5#8).read a = full.d.read a) ∧
    (∀ a, a < full.plen.toNat → (full.p.write 21 5#8).read a = full.p.read a) ∧ ∃ t, exec .apply full = .next t :=
  ⟨by decide +kernel, by decide +kernel, by decide +kernel, by decide +kernel, by decide +kernel, by decide +kernel,
    witness_next _ (by decide +kernel)⟩

theorem witness_ConstantsNeverChange : ∃ t, step (asked (.act .reset) full) = .next t := ⟨_, rfl⟩

/-- Another key. -/
def keyU : Vector Byte 32 := Vector.replicate 32 7#8

/-- A keystream function that refuses both keys with the nonce of `full`. -/
def refusingKs : KsChoice :=
  .other { id := 0, blockLenPred := 0, ctrBits := 8, refuses := [(keyT.toList, nonce0), (keyU.toList, nonce0)] }

/-- Both keys accepted, and both refused. -/
theorem witness_KeyReachesOnlyTheData : (∃ t, step (asked encryptItem full) = .next t) ∧
    (asked encryptItem full).nextAction ≠ some (.issue 0x03#8) ∧
    (∃ t, step (asked (.act (.issue 0x03#8)) full) = .next t) ∧
    (asked (.act (.issue 0x03#8)) full).nextAction = some (.issue 0x03#8) ∧ full.d.wf = true ∧ 8 < full.dlen.toNat ∧
    (ksInitOk full.params.ks keyU.toList full.n.toList = true ∧ ksInitOk full.params.ks full.key.toList full.n.toList = true) ∧
    (∃ t, step (asked (.act (.issue 0x03#8)) (withKs refusingKs full)) = .next t) ∧
    ksInitOk refusingKs keyU.toList full.n.toList = false ∧ ksInitOk refusingKs full.key.toList full.n.toList = false :=
  ⟨witness_next _ (by decide +kernel), by decide +kernel, witness_next _ (by decide +kernel), by decide +kernel,
    by decide +kernel, by decide +kernel, by decide +kernel, witness_next _ (by decide +kernel), by decide +kernel,
    by decide +kernel⟩

theorem witness_EveryCommandCompletes : full.Inv ∧ full.params.ks = .chacha20 :=
  ⟨inv_of_sound (by decide +kernel), by decide +kernel⟩

theorem witness_EveryStepKeepsTheInvariant : (asked decryptItem full).Inv ∧ ∃ t, step (asked decryptItem full) = .next t :=
  ⟨inv_of_sound (by decide +kernel), witness_next _ (by decide +kernel)⟩

theorem witness_SoundRunsNeverFault : (asked decryptItem full).Inv ∧ (asked decryptItem full).hostWellFormed = true ∧
    full.params.ks = .chacha20 :=
  ⟨inv_of_sound (by decide +kernel), by decide +kernel, by decide +kernel⟩

theorem witness_EncryptDecryptRoundTrip : keyT.toList.length = 32 ∧ nonce0.length = 12 ∧
    ksInitOk .chacha20 keyT.toList nonce0 = true ∧ 13 ≤ ksRoom .chacha20 := by decide +kernel

/-- `D` too small, `P` too small, and both just large enough, for a record with altitude. -/
theorem witness_EncryptEndState : (asked encryptItem full).Inv ∧ (asked encryptItem full).pending = encryptItem :: [] ∧
    full.af = true ∧ (caps 12 255 full).params.dcap.val < 13 ∧ 13 ≤ (caps 13 255 full).params.dcap.val ∧
    ksInitOk full.params.ks full.key.toList (full.devid.toList ++ be64 full.ctr) = true ∧ 13 ≤ ksRoom full.params.ks ∧
    12 + 13 ≤ (caps 13 25 full).params.pcap.val ∧ (caps 13 24 full).params.pcap.val < 12 + 13 ∧
    sound (caps 13 24 full) = true :=
  ⟨inv_of_sound (by decide +kernel), rfl, by decide +kernel, by decide +kernel, by decide +kernel, by decide +kernel,
    by decide +kernel, by decide +kernel, by decide +kernel, by decide +kernel⟩

/-- `D` too small, `P` too small, and both just large enough, for a record with altitude. -/
theorem witness_EncryptWithSuppliedNonce : (asked (encryptSuppliedItem nonce0) full).Inv ∧ nonce0.length = 12 ∧
    (asked (encryptSuppliedItem nonce0) full).pending = encryptSuppliedItem nonce0 :: [] ∧
    13 = (if full.af then 13 else 9) ∧ (caps 12 255 full).params.dcap.val < 13 ∧ 13 ≤ (caps 13 255 full).params.dcap.val ∧
    ksInitOk full.params.ks full.key.toList nonce0 = true ∧ 13 ≤ ksRoom full.params.ks ∧
    12 + 13 ≤ (caps 13 25 full).params.pcap.val ∧ (caps 13 24 full).params.pcap.val < 12 + 13 ∧
    sound (caps 13 24 full) = true :=
  ⟨inv_of_sound (by decide +kernel), by decide, rfl, by decide +kernel, by decide +kernel, by decide +kernel,
    by decide +kernel, by decide +kernel, by decide +kernel, by decide +kernel, by decide +kernel⟩

/-- The first two clauses at `PLEN` 19 and at `DCAP` 8; the third with a record (T-P4) and with a failure (T-F6). -/
theorem witness_DecryptEndState : (asked decryptItem full).Inv ∧ (asked decryptItem full).pending = decryptItem :: [] ∧
    (full.setPlen 19#8).plen.toNat < 20 ∧ 20 ≤ full.plen.toNat ∧
    (caps 8 255 (withP packet21 base)).params.dcap.val < full.plen.toNat - 12 ∧ full.plen.toNat - 12 ≤ full.params.dcap.val ∧
    sound (caps 8 255 (withP packet21 base)) = true ∧
    ksInitOk full.params.ks full.key.toList (full.p.readBytes 0 12) = true ∧
    full.plen.toNat - 12 ≤ ksRoom full.params.ks ∧
    deserialize .reject (xorBytes cipher9 (keystream .chacha20 keyT.toList nonce0 9)) =
      .ok { lat := wordOfI32 476687233, lon := wordOfI32 (-1223344556), alt := none } ∧
    deserialize .reject (xorBytes (cipher9.take 8) (keystream .chacha20 keyT.toList nonce0 8)) =
      .error .malformedPlaintext :=
  ⟨inv_of_sound (by decide +kernel), rfl, by decide +kernel, by decide +kernel, by decide +kernel, by decide +kernel,
    by decide +kernel, by decide +kernel, by decide +kernel, by decide +kernel, by decide +kernel⟩

/-- The sender `caps 13 25 full` sends; the receiver is `base` with that packet in `P`. -/
theorem witness_SenderReceiverPair : ∃ t, runSteps 4 (asked encryptItem (caps 13 25 full)) = .next t ∧
    (sound (asked encryptItem (caps 13 25 full)) &&
      let r := asked decryptItem (withP (t.p.readBytes 0 25) base)
      sound r && decide (r.key = full.key) && decide (r.params.ks = full.params.ks) && decide (13 ≤ r.params.dcap.val) &&
        decide (25 ≤ r.params.pcap.val) && ksInitOk full.params.ks full.key.toList (full.devid.toList ++ be64 full.ctr) &&
        decide (13 ≤ ksRoom full.params.ks) && decide (r.pending = [decryptItem]) && decide (r.plen = t.plen) &&
        (List.range 25).all fun a => r.p.read a == t.p.read a) = true :=
  exists_of_goes (by decide +kernel)

theorem witness_FlippedBitsPassThrough : apply .chacha20 keyT.toList nonce0 cipher9 = some (.ok plain9) ∧
    8 < cipher9.length := by decide +kernel

end Sys2Proof.Tests
end

/-! The signed and unsigned readings of 32 bits (00_scope.md R13): one equation per case of `u32OfI32` and `i32OfU32`,
the range each lands in, and the two round trips. A number outside `i32` is covered as far as an equation holds of it. -/

namespace Sys2Proof.Machine

section I32

variable {v : Int} {u : Nat}

theorem u32OfI32_of_nonneg (hv : 0 ≤ v) : (u32OfI32 v : Int) = v := by
  rw [u32OfI32, if_pos hv, Int.toNat_of_nonneg hv]

/-- The bound is what keeps `toNat` exact: below `-2^32` the function gives 0 (log 18). -/
theorem u32OfI32_of_neg (hlo : -2 ^ 32 ≤ v) (hv : v < 0) : (u32OfI32 v : Int) = v + 2 ^ 32 := by
  rw [u32OfI32, if_neg (not_le.mpr hv), Int.toNat_of_nonneg (by omega)]

theorem i32OfU32_of_lt (hu : u < 2 ^ 31) : i32OfU32 u = u := if_pos hu

theorem i32OfU32_of_ge (hu : 2 ^ 31 ≤ u) : i32OfU32 u = u - 2 ^ 32 := if_neg (not_lt.mpr hu)

theorem u32OfI32_lt (hlo : -2 ^ 32 ≤ v) (hhi : v < 2 ^ 32) : u32OfI32 v < 2 ^ 32 := by
  rcases lt_or_ge v 0 with hneg | hnonneg
  · have := u32OfI32_of_neg hlo hneg
    omega
  · have := u32OfI32_of_nonneg hnonneg
    omega

theorem i32OfU32_mem_range (hu : u < 2 ^ 32) : -2 ^ 31 ≤ i32OfU32 u ∧ i32OfU32 u < 2 ^ 31 := by
  rcases lt_or_ge u (2 ^ 31) with hlow | hhigh
  · rw [i32OfU32_of_lt hlow]
    omega
  · rw [i32OfU32_of_ge hhigh]
    omega

/-- The sign of `v` decides the half `u32OfI32 v` falls in, and with it the branch that undoes it. -/
theorem i32OfU32_u32OfI32 (hlo : -2 ^ 31 ≤ v) (hhi : v < 2 ^ 31) : i32OfU32 (u32OfI32 v) = v := by
  rcases lt_or_ge v 0 with hneg | hnonneg
  · have hval := u32OfI32_of_neg (by omega) hneg
    rw [i32OfU32_of_ge (by omega), hval, add_sub_cancel_right]
  · have hval := u32OfI32_of_nonneg hnonneg
    rw [i32OfU32_of_lt (by omega), hval]

/-- The half `u` lies in decides the sign of `i32OfU32 u`, and with it the branch that undoes it. -/
theorem u32OfI32_i32OfU32 (hu : u < 2 ^ 32) : u32OfI32 (i32OfU32 u) = u := by
  rcases lt_or_ge u (2 ^ 31) with hlow | hhigh
  · rw [i32OfU32_of_lt hlow]
    exact Int.ofNat_inj.mp (u32OfI32_of_nonneg (Int.natCast_nonneg u))
  · rw [i32OfU32_of_ge hhigh]
    have hval : (u32OfI32 (u - 2 ^ 32) : Int) = u - 2 ^ 32 + 2 ^ 32 := u32OfI32_of_neg (by omega) (by omega)
    exact Int.ofNat_inj.mp (hval.trans (sub_add_cancel _ _))

end I32

/-- Settles O14: the equations, the ranges and the two round trips of R13. -/
theorem signedUnsignedBijection : Obligations.SignedUnsignedBijection := by
  refine ⟨fun v hlo hhi => ?toUnsigned, fun u hu => ?toSigned⟩
  case toUnsigned =>
    exact ⟨u32OfI32_lt (by omega) (by omega), i32OfU32_u32OfI32 (by omega) (by omega), u32OfI32_of_nonneg,
      u32OfI32_of_neg (by omega)⟩
  case toSigned =>
    obtain ⟨hlo, hhi⟩ := i32OfU32_mem_range hu
    exact ⟨by omega, by omega, u32OfI32_i32OfU32 hu, i32OfU32_of_lt, i32OfU32_of_ge⟩

end Sys2Proof.Machine

/-! Fields (30_encoding.md R86, R87): a field's value is a reading of its word, and a field's four bytes are its word in
another form, so each round trip is one of words or one of signed numbers. -/

namespace Sys2Proof.Machine

/-- The four bytes as a number: below `2^32`, so that no bit is lost in the word. -/
theorem fromLe32_toNat (b : Bytes) :
    (fromLe32 b).toNat =
      (byteAt b 0).toNat + 256 * (byteAt b 1).toNat + 65536 * (byteAt b 2).toNat + 16777216 * (byteAt b 3).toNat := by
  have h0 := (byteAt b 0).isLt
  have h1 := (byteAt b 1).isLt
  have h2 := (byteAt b 2).isLt
  have h3 := (byteAt b 3).isLt
  rw [fromLe32, BitVec.toNat_ofNat]
  exact Nat.mod_eq_of_lt (by omega)

/-- The other half of `fromLe32_le32`: it needs the length, as `fromLe32` reads missing bytes as 0 and ignores surplus
ones (log 19). -/
theorem le32_fromLe32 {b : Bytes} (hb : b.length = 4) : le32 (fromLe32 b) = b := by
  refine List.ext_getElem (by simp [hb]) fun k hk hkb => ?_
  have hk4 : k < 4 := by simpa using hk
  calc (le32 (fromLe32 b))[k]
    _ = (le32 (fromLe32 b)).getD k 0#8 := (List.getD_eq_getElem _ _ hk).symm
    _ = byteOf k (fromLe32 b) := le32_getD _ k hk4 _
    _ = byteAt b k := byteOf_fromLe32 b k hk4
    _ = b[k] := List.getD_eq_getElem _ _ hkb

theorem wordOfI32_toNat {v : Int} (hlo : -2 ^ 32 ≤ v) (hhi : v < 2 ^ 32) : (wordOfI32 v).toNat = u32OfI32 v := by
  rw [wordOfI32, BitVec.toNat_ofNat, Nat.mod_eq_of_lt (u32OfI32_lt hlo hhi)]

theorem i32OfWord_wordOfI32 {v : Int} (hlo : -2 ^ 31 ≤ v) (hhi : v < 2 ^ 31) : i32OfWord (wordOfI32 v) = v := by
  rw [i32OfWord, wordOfI32_toNat (by omega) (by omega), i32OfU32_u32OfI32 hlo hhi]

/-- Both sides turn negative at `2^31`. -/
theorem i32OfWord_eq_toInt (w : Word) : i32OfWord w = w.toInt := by
  rw [i32OfWord, BitVec.toInt_eq_toNat_cond]
  rcases lt_or_ge w.toNat (2 ^ 31) with hlow | hhigh
  · rw [i32OfU32_of_lt hlow, if_pos (by omega)]
  · rw [i32OfU32_of_ge hhigh, if_neg (by omega)]
    rfl

/-- Settles O15: R87 in both directions, and the reading as two's complement. -/
theorem fieldEncodingIsExact : Obligations.FieldEncodingIsExact := by
  refine ⟨fun b hb => ⟨?assembled, le32_fromLe32 hb⟩, fun v hlo hhi => ?roundTrip, i32OfWord_eq_toInt⟩
  case assembled => rw [i32OfWord, fromLe32_toNat]
  case roundTrip => rw [fromLe32_le32, i32OfWord_wordOfI32 (by omega) (by omega)]

end Sys2Proof.Machine

/-! Command codes and the port (30_encoding.md R96, R100): which codes the decoder rejects, what no command touches, and
what a step on a stop-at-first-failure sequence answers. -/

namespace Sys2Proof

theorem encodeCode_toNat_mem_range (i : Instr) : 0x01 ≤ (encodeCode i).toNat ∧ (encodeCode i).toNat ≤ 0x06 := by
  cases i <;> decide

/-- The decoder knows no code but the six of the table. -/
theorem decodeCode_of_ne_encodeCode {code : Byte} (h : ∀ i, code ≠ encodeCode i) :
    decodeCode code = .error (.illegalCommand code) := by
  have hser : code ≠ 0x01#8 := h .ser
  have hdes : code ≠ 0x02#8 := h .des
  have happly : code ≠ 0x03#8 := h .apply
  have hnextn : code ≠ 0x04#8 := h .nextn
  have hbuild : code ≠ 0x05#8 := h .build
  have hparse : code ≠ 0x06#8 := h .parse
  simp only [decodeCode, hser, hdes, happly, hnextn, hbuild, hparse, if_false]

theorem decodeCode_of_unassigned {code : Byte} (h : code = 0x00#8 ∨ 0x07 ≤ code.toNat) :
    decodeCode code = .error (.illegalCommand code) := by
  refine decodeCode_of_ne_encodeCode fun i hi => ?_
  have hrange := encodeCode_toNat_mem_range i
  rw [← hi] at hrange
  rcases h with rfl | hge
  · exact absurd hrange.1 (by decide)
  · omega

namespace Machine

theorem issue_of_decode_error {code : Byte} {e : DecodeError} (h : decodeCode code = .error e) (s : State) :
    issue code s = .next (s.setStatus 7#8) := by
  rw [issue, h]
  rfl

/-- Settles O6: the decoder rejects the code, and issuing a rejected code is the error `IllegalCommand`. -/
theorem unassignedCodeOnlySetsStatus : Obligations.UnassignedCodeOnlySetsStatus := by
  intro s code rest hpending hcode
  calc step s
    _ = issue code (s.setPending rest) := step_cons hpending
    _ = .next ((s.setPending rest).setStatus 7#8) := issue_of_decode_error (decodeCode_of_unassigned hcode) _

/-- What no command touches: the parameters and constants, and the model's own fields. -/
structure State.CommandFrame (s t : State) : Prop where
  params : t.params = s.params
  key : t.key = s.key
  devid : t.devid = s.devid
  pending : t.pending = s.pending
  replies : t.replies = s.replies
  draws : t.draws = s.draws

theorem exec_frame {i : Instr} {s t : State} (h : exec i s = .next t) : s.CommandFrame t := by
  cases i with
  | ser =>
    obtain ⟨_, he⟩ | ⟨_, he⟩ := execSer_cases s
    all_goals
      cases he.symm.trans h
      constructor <;> simp
  | des =>
    obtain ⟨_, he⟩ | ⟨_, ⟨_, he⟩ | ⟨c, _, he⟩⟩ := execDes_cases s
    all_goals cases he.symm.trans h <;> constructor <;> simp
  | apply =>
    obtain ⟨_, he⟩ | ⟨_, ⟨_, he⟩ | ⟨_, _, he⟩ | ⟨_, _, he⟩⟩ := execApply_cases s
    all_goals cases he.symm.trans h <;> constructor <;> simp
  | nextn =>
    cases (execNextn_eq s).symm.trans h
    constructor <;> simp
  | build =>
    obtain ⟨_, he⟩ | ⟨_, ⟨_, he⟩ | ⟨_, he⟩⟩ := execBuild_cases s
    all_goals cases he.symm.trans h <;> constructor <;> simp
  | parse =>
    obtain ⟨_, he⟩ | ⟨_, ⟨_, he⟩ | ⟨_, _, he⟩ | ⟨_, _, he⟩⟩ := execParse_cases s
    all_goals cases he.symm.trans h <;> constructor <;> simp

theorem issue_frame {code : Byte} {s t : State} (h : issue code s = .next t) : s.CommandFrame t := by
  cases hdec : decodeCode code with
  | ok i => exact exec_frame ((issue_of_decode hdec s).symm.trans h)
  | error e =>
    cases (issue_of_decode_error hdec s).symm.trans h
    constructor <;> simp

theorem performItem_whileOk_eq_next {a : HostAction} {as : List HostAction} {s t : State}
    (h : performItem (.whileOk (a :: as)) s = .next t) : ∃ u, perform a s = .next u ∧ t = continueWhileOk a as u := by
  cases hp : perform a s with
  | next u =>
    simp only [performItem, hp, Host.Outcome.next.injEq] at h
    exact ⟨u, rfl, h.symm⟩
  | fault f => simp [performItem, hp] at h
  | refused r => simp [performItem, hp] at h

@[simp] theorem continueWhileOk_status (a : HostAction) (as : List HostAction) (s : State) :
    (continueWhileOk a as s).status = s.status := by
  rcases continueWhileOk_cases a as s with h | h <;> simp [h]

/-- A command that failed drops the rest of its sequence. -/
theorem continueWhileOk_issue_of_failed {s : State} (h : s.status ≠ 0#8) (code : Byte) (as : List HostAction) :
    continueWhileOk (.issue code) as s = s := by
  simp [continueWhileOk, HostAction.isIssue, okCode, h]

/-- Settles O7: the expansions are the model's own, and after a failed command the host's list is the one the command was
run with, which no command touches. -/
theorem pseudoCommandsExpandAndStop : Obligations.PseudoCommandsExpandAndStop := by
  refine ⟨rfl, rfl, fun s t code as rest hpending hstep hfailed => ?_⟩
  rw [step_cons hpending] at hstep
  obtain ⟨u, hissue, rfl⟩ := performItem_whileOk_eq_next hstep
  rw [continueWhileOk_status] at hfailed
  calc (continueWhileOk (.issue code) as u).pending
    _ = u.pending := by rw [continueWhileOk_issue_of_failed hfailed]
    _ = (s.setPending rest).pending := (issue_frame hissue).pending
    _ = rest := State.setPending_pending _ _

end Machine

end Sys2Proof

/-! The coordinate codec (40_coordinate_codec.md): deserialize by the flag alone, one record for each reading of it; what
serialize puts at each offset; and the commands `SER` and `DES` on the buffer `D`. -/

namespace Sys2Proof.Machine

/-! ## Slices and fields -/

section Slices

variable {b : Bytes} {i j k : Nat}

theorem slice_append_slice (hij : i ≤ j) (hjk : j ≤ k) : slice b i j ++ slice b j k = slice b i k := by
  have hk : k - i = (j - i) + (k - j) := by omega
  have hj : b.drop j = (b.drop i).drop (j - i) := by rw [List.drop_drop, Nat.add_sub_cancel' hij]
  rw [slice, slice, slice, hk, List.take_add, hj]

theorem slice_slice_zero (hjk : j ≤ k) : slice (slice b 0 k) i j = slice b i j := by
  simp only [slice, List.drop_zero, Nat.sub_zero, List.drop_take, List.take_take]
  rw [min_eq_left (by omega)]

theorem slice_succ (hi : i < b.length) : slice b i (i + 1) = [byteAt b i] := by
  rw [slice, List.drop_eq_getElem_cons hi, Nat.add_sub_cancel_left, byteAt, List.getD_eq_getElem b _ hi]
  rfl

theorem le32_fromLe32_slice (hi : i + 4 ≤ b.length) : le32 (fromLe32 (slice b i (i + 4))) = slice b i (i + 4) :=
  le32_fromLe32 (by rw [slice_length]; omega)

end Slices

/-- `fromLe32` in the bits of its word: byte 3 at the top. -/
theorem fromLe32_eq_append (b : Bytes) : fromLe32 b = byteAt b 3 ++ byteAt b 2 ++ byteAt b 1 ++ byteAt b 0 := by
  apply BitVec.eq_of_toNat_eq
  have h0 := (byteAt b 0).isLt
  have h1 := (byteAt b 1).isLt
  have h2 := (byteAt b 2).isLt
  rw [fromLe32_toNat, BitVec.toNat_append, BitVec.toNat_append, BitVec.toNat_append, ← Nat.shiftLeft_add_eq_or_of_lt h0,
    ← Nat.shiftLeft_add_eq_or_of_lt h1, ← Nat.shiftLeft_add_eq_or_of_lt h2]
  omega

/-! ## The flag byte -/

section Flag

variable {flag : Byte} {policy : FlagPolicy}

theorem flag_zero_or_one_or_reserved (flag : Byte) : flag = 0x00#8 ∨ flag = 0x01#8 ∨ 2 ≤ flag.toNat := by
  bv_omega

/-- R115 treats all reserved values alike. -/
theorem flagPresent_of_reserved (h : 2 ≤ flag.toNat) : flagPresent policy flag = flagPresent policy 0x02#8 := by
  have h0 : flag ≠ 0x00#8 := by bv_omega
  have h1 : flag ≠ 0x01#8 := by bv_omega
  exact (if_neg h0).trans (if_neg h1)

/-- Where the flag is not rejected, R113 and R115 leave one reading of it. -/
theorem flagPresent_eq_ok {present : Bool}
    (hpresent : present = true ↔ flag = 0x01#8 ∨ (2 ≤ flag.toNat ∧ policy = .nonzeroPresent))
    (habsent : present = false → ¬ (2 ≤ flag.toNat ∧ policy = .reject)) : flagPresent policy flag = .ok present := by
  cases present with
  | true =>
    rcases hpresent.mp rfl with rfl | ⟨hres, rfl⟩
    · rfl
    · exact flagPresent_of_reserved hres
  | false =>
    rcases flag_zero_or_one_or_reserved flag with rfl | rfl | hres
    · rfl
    · exact absurd (hpresent.mpr (.inl rfl)) Bool.false_ne_true
    · rw [flagPresent_of_reserved hres]
      cases policy with
      | reject => exact absurd ⟨hres, rfl⟩ (habsent rfl)
      | nonzeroPresent => exact absurd (hpresent.mpr (.inr ⟨hres, rfl⟩)) Bool.false_ne_true
      | absent => rfl

end Flag

/-! ## Deserialize -/

/-- The record a string holds under a reading of its flag: present (`true`) or absent (`false`). -/
def recordOf (b : Bytes) (present : Bool) : Coord where
  lat := fromLe32 (slice b 0 4)
  lon := fromLe32 (slice b 4 8)
  alt := if present then some (fromLe32 (slice b 9 13)) else none

/-- The bytes a record takes: `need` of R110. -/
def recordLength (present : Bool) : Nat := if present then 13 else 9

theorem serializedLength_eq_recordLength (c : Coord) : serializedLength c = recordLength c.alt.isSome := rfl

theorem nine_le_recordLength (present : Bool) : 9 ≤ recordLength present := by
  cases present <;> decide

@[simp] theorem recordOf_alt_isSome (b : Bytes) (present : Bool) : (recordOf b present).alt.isSome = present := by
  cases present <;> rfl

section Deserialize

variable {b : Bytes} {policy : FlagPolicy} {present : Bool}

theorem deserialize_of_length_lt_nine (h : b.length < 9) : deserialize policy b = .error .malformedPlaintext := if_pos h

theorem deserialize_of_flag_error {e : CmdError} (hlen : 9 ≤ b.length)
    (hflag : flagPresent policy (byteAt b 8) = .error e) : deserialize policy b = .error e := by
  rw [deserialize, if_neg (by omega), hflag]

/-- With the flag read, the length decides. -/
theorem deserialize_of_flag_ok (hflag : flagPresent policy (byteAt b 8) = .ok present) :
    deserialize policy b =
      if b.length < recordLength present then .error .malformedPlaintext else .ok (recordOf b present) := by
  cases present with
  | false => rw [deserialize, hflag]; rfl
  | true =>
    rcases lt_or_ge b.length 9 with hshort | hlong
    · have h13 : b.length < recordLength true := lt_of_lt_of_le hshort (nine_le_recordLength true)
      rw [deserialize, if_pos hshort, if_pos h13]
    · rw [deserialize, if_neg (by omega), hflag]; rfl

theorem deserialize_of_recordLength_le (hflag : flagPresent policy (byteAt b 8) = .ok present)
    (hlen : recordLength present ≤ b.length) : deserialize policy b = .ok (recordOf b present) := by
  rw [deserialize_of_flag_ok hflag, if_neg (by omega)]

theorem deserialize_of_lt_recordLength (hflag : flagPresent policy (byteAt b 8) = .ok present)
    (hlen : b.length < recordLength present) : deserialize policy b = .error .malformedPlaintext := by
  rw [deserialize_of_flag_ok hflag, if_pos hlen]

/-- The flag's reading and the length that a success comes from. -/
theorem recordLength_le_of_deserialize {c : Coord} (h : deserialize policy b = .ok c)
    (hflag : flagPresent policy (byteAt b 8) = .ok present) :
    recordLength present ≤ b.length ∧ c = recordOf b present := by
  rw [deserialize_of_flag_ok hflag] at h
  split at h
  · cases h
  · cases h
    exact ⟨by omega, rfl⟩

/-- R116: a record reads only its own bytes. -/
theorem recordOf_slice (b : Bytes) (present : Bool) :
    recordOf (slice b 0 (recordLength present)) present = recordOf b present := by
  have h9 := nine_le_recordLength present
  rw [recordOf, slice_slice_zero (by omega), slice_slice_zero (by omega)]
  cases present with
  | false => rfl
  | true => rw [recordLength, slice_slice_zero (by simp)]; rfl

theorem deserialize_slice_recordLength (hflag : flagPresent policy (byteAt b 8) = .ok present)
    (hlen : recordLength present ≤ b.length) :
    deserialize policy (slice b 0 (recordLength present)) = .ok (recordOf b present) := by
  have h9 := nine_le_recordLength present
  have hflag' : flagPresent policy (byteAt (slice b 0 (recordLength present)) 8) = .ok present := by
    rw [byteAt_slice _ _ _ _ (by omega), zero_add, hflag]
  rw [deserialize_of_recordLength_le hflag' (by rw [slice_length]; omega), recordOf_slice]

end Deserialize

/-! ## Serialize -/

section Serialize

variable (c : Coord) {k : Nat}

theorem byteAt_serializedBytes_lat (hk : k < 4) : byteAt (serializedBytes c) k = byteOf k c.lat := by
  interval_cases k <;> rfl

theorem byteAt_serializedBytes_lon (hk : k < 4) : byteAt (serializedBytes c) (4 + k) = byteOf k c.lon := by
  interval_cases k <;> rfl

theorem byteAt_serializedBytes_flag : byteAt (serializedBytes c) 8 = flagByte c.alt.isSome := rfl

theorem byteAt_serializedBytes_alt {alt : Word} (halt : c.alt = some alt) (hk : k < 4) :
    byteAt (serializedBytes c) (9 + k) = byteOf k alt := by
  rw [serializedBytes, halt]
  interval_cases k <;> rfl

theorem serialize_of_le {cap : Nat} (h : serializedLength c ≤ cap) : serialize c cap = .ok (serializedBytes c) :=
  if_neg (by omega)

theorem eq_serializedBytes_of_serialize {cap : Nat} {v : Bytes} (h : serialize c cap = .ok v) : v = serializedBytes c := by
  rcases serialize_cases c cap with ⟨_, he⟩ | ⟨_, he⟩
  · cases he.symm.trans h
  · cases he.symm.trans h
    rfl

/-- Each field lies where the record looks for it. -/
theorem recordOf_serializedBytes : recordOf (serializedBytes c) c.alt.isSome = c := by
  have hlat : slice (serializedBytes c) 0 4 = le32 c.lat := rfl
  have hlon : slice (serializedBytes c) 4 8 = le32 c.lon := rfl
  rw [recordOf, hlat, hlon, fromLe32_le32, fromLe32_le32]
  obtain ⟨lat, lon, alt⟩ := c
  cases alt with
  | none => rfl
  | some alt =>
    have halt : slice (serializedBytes ⟨lat, lon, some alt⟩) 9 13 = le32 alt := rfl
    rw [halt, fromLe32_le32]
    rfl

theorem deserialize_serializedBytes (policy : FlagPolicy) : deserialize policy (serializedBytes c) = .ok c := by
  have hflag : flagPresent policy (byteAt (serializedBytes c) 8) = .ok c.alt.isSome := by
    rw [byteAt_serializedBytes_flag, flagPresent_flagByte]
  have hlen : (serializedBytes c).length = recordLength c.alt.isSome := by
    rw [serializedBytes_length, serializedLength_eq_recordLength]
  rw [deserialize_of_recordLength_le hflag hlen.ge, recordOf_serializedBytes]

variable {c}

/-- Injective because deserialize undoes it. -/
theorem serializedBytes_injective {c' : Coord} (h : serializedBytes c = serializedBytes c') : c = c' := by
  have hc := deserialize_serializedBytes c .reject
  rw [h, deserialize_serializedBytes c' .reject] at hc
  exact (Except.ok.inj hc).symm

/-- A string whose flag is the one serialize emits starts with the bytes of its record, field by field. -/
theorem serializedBytes_recordOf {b : Bytes} {present : Bool} (hflag : byteAt b 8 = flagByte present)
    (hlen : recordLength present ≤ b.length) :
    serializedBytes (recordOf b present) = slice b 0 (recordLength present) := by
  have h9 := nine_le_recordLength present
  have hlat : le32 (recordOf b present).lat = slice b 0 4 := le32_fromLe32_slice (by omega)
  have hlon : le32 (recordOf b present).lon = slice b 4 8 := le32_fromLe32_slice (by omega)
  have hflagSlice : [flagByte (recordOf b present).alt.isSome] = slice b 8 9 := by
    rw [recordOf_alt_isSome, ← hflag, slice_succ (by omega)]
  rw [serializedBytes, hlat, hlon, hflagSlice, slice_append_slice (by omega) (by omega),
    slice_append_slice (by omega) (by omega)]
  cases present with
  | false => exact List.append_nil _
  | true =>
    have halt : le32 (fromLe32 (slice b 9 13)) = slice b 9 13 := le32_fromLe32_slice hlen
    calc slice b 0 9 ++ le32 (fromLe32 (slice b 9 13))
      _ = slice b 0 9 ++ slice b 9 13 := by rw [halt]
      _ = slice b 0 13 := slice_append_slice (by omega) (by omega)

theorem serialize_of_deserialize {b : Bytes} {policy : FlagPolicy} {present : Bool} (h : deserialize policy b = .ok c)
    (hflag : byteAt b 8 = flagByte present) : serialize c 13 = .ok (slice b 0 (recordLength present)) := by
  obtain ⟨hlen, rfl⟩ := recordLength_le_of_deserialize h (hflag ▸ flagPresent_flagByte policy present)
  have hcap : serializedLength (recordOf b present) ≤ 13 := by
    rcases serializedLength_bounds (recordOf b present) with h' | h' <;> omega
  rw [serialize_of_le _ hcap, serializedBytes_recordOf hflag hlen]

end Serialize

/-- Settles O20: R119. Both round trips are `recordOf` against `serializedBytes`; injectivity follows from the first. -/
theorem codecRoundTrip : Obligations.CodecRoundTrip := by
  refine ⟨fun c cap policy hcap => ?decodeEncode, fun b c policy h => ?encodeDecode,
    fun c c' cap cap' v h h' => ?injective⟩
  case decodeEncode => exact ⟨serializedBytes c, serialize_of_le c hcap, deserialize_serializedBytes c policy⟩
  case encodeDecode =>
    exact ⟨serialize_of_deserialize (present := false) h, serialize_of_deserialize (present := true) h⟩
  case injective =>
    exact serializedBytes_injective
      ((eq_serializedBytes_of_serialize c h).symm.trans (eq_serializedBytes_of_serialize c' h'))

/-- Settles O22: R116 for the two flags that mean the same under every policy. -/
theorem surplusBytesIgnored : Obligations.SurplusBytesIgnored := by
  refine fun policy b => ⟨fun h8 hlen => ?absent, fun h8 hlen => ?present⟩
  case absent =>
    have hflag : flagPresent policy (byteAt b 8) = .ok false := h8 ▸ flagPresent_flagByte policy false
    exact ⟨recordOf b false, rfl, deserialize_of_recordLength_le hflag hlen, deserialize_slice_recordLength hflag hlen⟩
  case present =>
    have hflag : flagPresent policy (byteAt b 8) = .ok true := h8 ▸ flagPresent_flagByte policy true
    exact ⟨recordOf b true, rfl, deserialize_of_recordLength_le hflag hlen, deserialize_slice_recordLength hflag hlen⟩

/-! ## `SER` -/

section WriteAtZero

variable {m : Memory} {v : Bytes} {a : Nat}

theorem read_writeBytes_zero_of_lt (hm : m.wf = true) (ha : a < v.length) : (m.writeBytes 0 v).read a = byteAt v a := by
  rw [Memory.read_writeBytes hm, if_pos ⟨Nat.zero_le a, by omega⟩]
  rfl

theorem read_writeBytes_zero_of_ge (hm : m.wf = true) (ha : v.length ≤ a) : (m.writeBytes 0 v).read a = m.read a := by
  rw [Memory.read_writeBytes hm, if_neg (by omega)]

end WriteAtZero

section Ser

variable {s : State}

/-- `need` of R117 is that of R110 for the staged record. -/
theorem serializedLength_stagedCoord (s : State) : serializedLength (stagedCoord s) = if s.af then 13 else 9 := by
  rw [serializedLength, stagedCoord_alt_isSome]

theorem execSer_of_lt (h : s.params.dcap.val < if s.af then 13 else 9) : execSer s = .next (s.setStatus 1#8) := by
  rcases execSer_cases s with ⟨_, he⟩ | ⟨hfits, _⟩
  · exact he
  · rw [serializedLength_stagedCoord, capacity_d] at hfits
    omega

theorem execSer_of_le (h : (if s.af then 13 else 9) ≤ s.params.dcap.val) :
    execSer s = .next (((s.setD (s.d.writeBytes 0 (serializedBytes (stagedCoord s)))).setDlen
      (if s.af then 13#8 else 9#8)).setStatus 0#8) := by
  rcases execSer_cases s with ⟨hsmall, _⟩ | ⟨_, he⟩
  · rw [serializedLength_stagedCoord, capacity_d] at hsmall
    omega
  · have hdlen : BitVec.ofNat 8 (if s.af then 13 else 9) = if s.af then 13#8 else 9#8 := by cases s.af <;> rfl
    rwa [serializedLength_stagedCoord, hdlen] at he

end Ser

/-- Settles O17: `D` is the old one with the serialized record over its first bytes, read off field by field. -/
theorem serWritesTheRecord : Obligations.SerWritesTheRecord := by
  intro s hwf
  have hlen : (serializedBytes (stagedCoord s)).length = if s.af then 13 else 9 := by
    rw [serializedBytes_length, serializedLength_stagedCoord]
  have h9 : 9 ≤ (serializedBytes (stagedCoord s)).length := hlen ▸ nine_le_recordLength s.af
  refine ⟨execSer_of_lt, fun hfits => ⟨_, execSer_of_le hfits, Memory.writeBytes_wf hwf _ _,
    fun k hk => ?lat, fun k hk => ?lon, ?flag, fun haf k hk => ?alt,
    fun a ha => read_writeBytes_zero_of_ge hwf (hlen ▸ ha)⟩⟩
  case lat => rw [read_writeBytes_zero_of_lt hwf (by omega), byteAt_serializedBytes_lat _ hk, byteOf, stagedCoord_lat]
  case lon => rw [read_writeBytes_zero_of_lt hwf (by omega), byteAt_serializedBytes_lon _ hk, byteOf, stagedCoord_lon]
  case flag =>
    rw [read_writeBytes_zero_of_lt hwf h9, byteAt_serializedBytes_flag, stagedCoord_alt_isSome, flagByte]
  case alt =>
    have halt : (stagedCoord s).alt = some s.alt := by rw [stagedCoord_alt, if_pos haf]
    rw [if_pos haf] at hlen
    rw [read_writeBytes_zero_of_lt hwf (by omega), byteAt_serializedBytes_alt _ halt hk, byteOf]

/-! ## `DES` -/

section Des

variable {s : State} {present : Bool}

/-- The data `DES` reads. -/
def desData (s : State) : Bytes := s.d.readBytes 0 s.dlen.toNat

@[simp] theorem desData_length (s : State) : (desData s).length = s.dlen.toNat := Memory.readBytes_length _ _ _

theorem byteAt_desData {i : Nat} (hi : i < s.dlen.toNat) : byteAt (desData s) i = s.d.read i := by
  rw [byteAt, desData, Memory.readBytes_getD, if_pos hi, zero_add]

theorem execDes_of_ok {c : Coord} (hcap : s.dlen.toNat ≤ s.params.dcap.val)
    (h : deserialize s.params.flagPolicy (desData s) = .ok c) : execDes s = .next ((putCoord c s).setStatus 0#8) := by
  obtain ⟨hlt, _⟩ | ⟨_, ⟨herr, _⟩ | ⟨c', hok, he⟩⟩ := execDes_cases s
  · exact absurd hcap (not_le.mpr hlt)
  · cases herr.symm.trans h
  · cases hok.symm.trans h
    exact he

theorem execDes_of_error (hcap : s.dlen.toNat ≤ s.params.dcap.val)
    (h : deserialize s.params.flagPolicy (desData s) = .error .malformedPlaintext) :
    execDes s = .next (s.setStatus 2#8) := by
  obtain ⟨hlt, _⟩ | ⟨_, ⟨_, he⟩ | ⟨c', hok, _⟩⟩ := execDes_cases s
  · exact absurd hcap (not_le.mpr hlt)
  · exact he
  · cases hok.symm.trans h

/-- A field of the record, as four bytes of `D`. -/
theorem fromLe32_slice_desData {i : Nat} (hi : i + 4 ≤ s.dlen.toNat) :
    fromLe32 (slice (desData s) i (i + 4)) =
      s.d.read (i + 3) ++ s.d.read (i + 2) ++ s.d.read (i + 1) ++ s.d.read i := by
  have hbyte (k : Nat) (hk : k < 4) : byteAt (slice (desData s) i (i + 4)) k = s.d.read (i + k) := by
    rw [byteAt_slice _ _ _ _ (by omega), byteAt_desData (by omega)]
  rw [fromLe32_eq_append, hbyte 0 (by omega), hbyte 1 (by omega), hbyte 2 (by omega), hbyte 3 (by omega), add_zero]

/-- The registers after the record of `D` is staged, each field by the bytes it comes from. -/
theorem putCoord_recordOf_desData (hlen : recordLength present ≤ s.dlen.toNat) :
    putCoord (recordOf (desData s) present) s =
      (((s.setLat (s.d.read 3 ++ s.d.read 2 ++ s.d.read 1 ++ s.d.read 0)).setLon
        (s.d.read 7 ++ s.d.read 6 ++ s.d.read 5 ++ s.d.read 4)).setAf present).setAlt
        (if present then s.d.read 12 ++ s.d.read 11 ++ s.d.read 10 ++ s.d.read 9 else 0#32) := by
  have h9 := nine_le_recordLength present
  have hlat : (recordOf (desData s) present).lat = _ := fromLe32_slice_desData (by omega)
  have hlon : (recordOf (desData s) present).lon = _ := fromLe32_slice_desData (by omega)
  rw [putCoord, hlat, hlon, recordOf_alt_isSome]
  cases present with
  | false => rfl
  | true =>
    have halt : fromLe32 (slice (desData s) 9 13) = _ := fromLe32_slice_desData hlen
    rw [recordOf, halt]
    rfl

theorem execDes_of_flag_ok (hcap : s.dlen.toNat ≤ s.params.dcap.val)
    (hflag : flagPresent s.params.flagPolicy (byteAt (desData s) 8) = .ok present)
    (hlen : recordLength present ≤ s.dlen.toNat) :
    execDes s = .next (((((s.setLat (s.d.read 3 ++ s.d.read 2 ++ s.d.read 1 ++ s.d.read 0)).setLon
      (s.d.read 7 ++ s.d.read 6 ++ s.d.read 5 ++ s.d.read 4)).setAf present).setAlt
      (if present then s.d.read 12 ++ s.d.read 11 ++ s.d.read 10 ++ s.d.read 9 else 0#32)).setStatus 0#8) := by
  rw [execDes_of_ok hcap (deserialize_of_recordLength_le hflag (by rwa [desData_length])), putCoord_recordOf_desData hlen]

end Des

/-- Settles O19: the flag, where not rejected, fixes the length the record needs, and the length decides between
`MalformedPlaintext` and the record. -/
theorem desReadsTheRecord : Obligations.DesReadsTheRecord := by
  rintro s hcap lat lon alt rfl rfl rfl present hpresent
  have hread (h9 : 9 ≤ s.dlen.toNat) : byteAt (desData s) 8 = s.d.read 8 := byteAt_desData h9
  have hflag (h9 : 9 ≤ s.dlen.toNat)
      (habsent : present = false → ¬ (2 ≤ (s.d.read 8).toNat ∧ s.params.flagPolicy = .reject)) :
      flagPresent s.params.flagPolicy (byteAt (desData s) 8) = .ok present := by
    rw [hread h9, flagPresent_eq_ok hpresent habsent]
  refine ⟨fun hshort => ?tooShort, fun h9 hres hpolicy => ?rejected, fun h9 habsent hp => ?absent,
    fun h9 h13 hp => ?truncated, fun h13 hp => ?present⟩
  case tooShort => exact execDes_of_error hcap (deserialize_of_length_lt_nine (by rwa [desData_length]))
  case rejected =>
    have herr : flagPresent s.params.flagPolicy (byteAt (desData s) 8) = .error .malformedPlaintext := by
      rw [hpolicy, hread h9, flagPresent_of_reserved hres]
      rfl
    exact execDes_of_error hcap (deserialize_of_flag_error (by rwa [desData_length]) herr)
  case absent =>
    subst hp
    exact execDes_of_flag_ok hcap (hflag h9 fun _ => habsent) h9
  case truncated =>
    subst hp
    exact execDes_of_error hcap (deserialize_of_lt_recordLength (hflag h9 nofun) (by rwa [desData_length]))
  case present =>
    subst hp
    exact execDes_of_flag_ok hcap (hflag (by omega) nofun) h13

end Sys2Proof.Machine

/-! The default cipher's initial state (41_keystream_generator.md R136): the key words and the nonce words by their
index, and the bytes of such a word. -/

namespace Sys2Proof.Machine

/-- A word of four bytes taken out of a longer string, byte by byte. -/
theorem byteOf_fromLe32_slice (b : Bytes) {i k : Nat} (hk : k < 4) :
    byteOf k (fromLe32 (slice b i (i + 4))) = byteAt b (i + k) := by
  rw [byteOf_fromLe32 _ _ hk, byteAt_slice _ _ _ _ (by omega)]

section ChachaInit

variable (key nonce : Bytes) (j : Word) {i : Nat}

theorem chachaInit_getElem_key (hi : i < 8) :
    (chachaInit key nonce j)[4 + i] = fromLe32 (slice key (4 * i) (4 * i + 4)) := by
  interval_cases i <;> rfl

theorem chachaInit_getElem_nonce (hi : i < 3) :
    (chachaInit key nonce j)[13 + i] = fromLe32 (slice nonce (4 * i) (4 * i + 4)) := by
  interval_cases i <;> rfl

end ChachaInit

/-- Settles O24: the constants and the counter stand in the definition; a key or nonce word is the `from_le32` of a slice,
and its bytes are those of the slice. -/
theorem cipherInitialState : Obligations.CipherInitialState := by
  intro key nonce j _ _
  refine ⟨rfl, rfl, rfl, rfl, rfl, fun i k hi hk => ?keyWord, fun i k hi hk => ?nonceWord⟩
  case keyWord =>
    rw [chachaInit_getElem_key key nonce j hi]
    exact byteOf_fromLe32_slice key hk
  case nonceWord =>
    rw [chachaInit_getElem_nonce key nonce j hi]
    exact byteOf_fromLe32_slice nonce hk

end Sys2Proof.Machine

/-! The datapath (42_xor_datapath.md): a byte of the keystream by its block, the bytes of an exclusive or, one equation for
each answer of `apply`, and what `APPLY` makes of the data in `D`. -/

namespace Sys2Proof.Machine

section Keystream

variable (ks : KsChoice) (key nonce : Bytes) {n i : Nat}

/-- Enough blocks are laid end to end for `n` bytes. -/
theorem le_blockCount_mul_ksBlockLen (n : Nat) : n ≤ (n + ksBlockLen ks - 1) / ksBlockLen ks * ksBlockLen ks := by
  have hlen := keystream_length ks [] [] n
  rw [keystream, List.length_take, blocks_length] at hlen
  exact min_eq_left_iff.mp hlen

/-- The keystream byte does not depend on how many bytes are drawn. -/
theorem byteAt_keystream (hi : i < n) :
    byteAt (keystream ks key nonce n) i =
      byteAt (ksBlock ks key nonce (i / ksBlockLen ks)) (i % ksBlockLen ks) := by
  rw [byteAt, keystream, List.getD_eq_getElem?_getD, List.getElem?_take_of_lt hi, ← List.getD_eq_getElem?_getD]
  exact blocks_getD ks key nonce _ i (hi.trans_le (le_blockCount_mul_ksBlockLen ks n)) _

end Keystream

section Xor

variable {ks : KsChoice} {key nonce data : Bytes} {i : Nat}

theorem byteAt_xorBytes {a k : Bytes} (ha : i < a.length) (hk : i < k.length) :
    byteAt (xorBytes a k) i = byteAt a i ^^^ byteAt k i := by
  simp [byteAt, xorBytes, ha, hk]

/-- Two bytes masked alike differ in the bits in which they differed before. -/
theorem xor_xor_xor_cancel_right (x y k : Byte) : (x ^^^ k) ^^^ (y ^^^ k) = x ^^^ y := by
  calc (x ^^^ k) ^^^ (y ^^^ k)
    _ = (x ^^^ y) ^^^ (k ^^^ k) := by ac_rfl
    _ = x ^^^ y := by rw [BitVec.xor_self, BitVec.xor_zero]

theorem xorBytes_keystream_length :
    (xorBytes data (keystream ks key nonce data.length)).length = data.length := by
  rw [xorBytes_length, keystream_length, min_self]

theorem byteAt_xorBytes_keystream (hi : i < data.length) :
    byteAt (xorBytes data (keystream ks key nonce data.length)) i =
      byteAt data i ^^^ byteAt (ksBlock ks key nonce (i / ksBlockLen ks)) (i % ksBlockLen ks) := by
  rw [byteAt_xorBytes hi (by rwa [keystream_length]), byteAt_keystream ks key nonce hi]

end Xor

section Apply

variable {ks : KsChoice} {key nonce data : Bytes}

theorem apply_of_key_length_ne (hkey : key.length ≠ 32) : apply ks key nonce data = some (.error .invalidKey) :=
  if_pos hkey

theorem apply_of_nonce_length_ne (hkey : key.length = 32) (hnonce : nonce.length ≠ 12) :
    apply ks key nonce data = some (.error .invalidNonce) := by
  rw [apply, if_neg (not_not.mpr hkey), if_pos hnonce]

theorem apply_of_refused (hkey : key.length = 32) (hnonce : nonce.length = 12) (hks : ksInitOk ks key nonce = false) :
    apply ks key nonce data = some (.error .cipherError) := by
  rw [apply, if_neg (not_not.mpr hkey), if_neg (not_not.mpr hnonce), if_pos hks]

theorem apply_of_served (hkey : key.length = 32) (hnonce : nonce.length = 12) (hks : ksInitOk ks key nonce = true)
    (hroom : data.length ≤ ksRoom ks) :
    apply ks key nonce data = some (.ok (xorBytes data (keystream ks key nonce data.length))) := by
  rw [apply, if_neg (not_not.mpr hkey), if_neg (not_not.mpr hnonce), if_neg (ne_false_of_eq_true hks),
    if_neg (not_lt.mpr hroom)]

/-- The other four answers of `apply` are errors or none. -/
theorem eq_xorBytes_of_apply {r : Bytes} (h : apply ks key nonce data = some (.ok r)) :
    r = xorBytes data (keystream ks key nonce data.length) := by
  obtain ⟨_, he⟩ | ⟨_, _, he⟩ | ⟨_, _, _, he⟩ | ⟨_, _, _, _, he⟩ | ⟨_, _, _, _, he⟩ := apply_cases ks key nonce data <;>
    cases h.symm.trans he
  rfl

end Apply

/-- Settles O27: each clause is the equation of one answer, the last read byte by byte. -/
theorem applyChecksInOrder : Obligations.ApplyChecksInOrder := by
  intro ks key nonce data
  refine ⟨apply_of_key_length_ne, apply_of_nonce_length_ne, apply_of_refused, fun hkey hnonce hks hroom =>
    ⟨_, apply_of_served hkey hnonce hks hroom, xorBytes_keystream_length, fun i hi => ?_⟩⟩
  exact byteAt_xorBytes hi (by rwa [keystream_length])

/-- Settles O28: the result has the length of the data, so the second call draws the same keystream. -/
theorem applyIsSelfInverse : Obligations.ApplyIsSelfInverse := by
  intro ks key nonce data hkey hnonce hks hroom
  have hlen : (xorBytes data (keystream ks key nonce data.length)).length = data.length := xorBytes_keystream_length
  refine ⟨_, apply_of_served hkey hnonce hks hroom, ?_⟩
  rw [apply_of_served hkey hnonce hks (hlen.trans_le hroom), hlen, xorBytes_self_inverse (keystream_length ..).symm]

/-- Settles O29: the two outputs are masked with the same keystream byte at a common offset, whatever the two lengths are,
and bytes are equal when their exclusive or is 0. -/
theorem applyKeepsBitDifferences : Obligations.ApplyKeepsBitDifferences := by
  intro ks key nonce a b ra rb ha hb
  obtain rfl := eq_xorBytes_of_apply ha
  obtain rfl := eq_xorBytes_of_apply hb
  have hdiff (i : Nat) (hia : i < a.length) (hib : i < b.length) :
      byteAt (xorBytes a (keystream ks key nonce a.length)) i ^^^ byteAt (xorBytes b (keystream ks key nonce b.length)) i =
        byteAt a i ^^^ byteAt b i := by
    rw [byteAt_xorBytes_keystream hia, byteAt_xorBytes_keystream hib, xor_xor_xor_cancel_right]
  refine ⟨xorBytes_keystream_length, xorBytes_keystream_length, hdiff, fun i hia hib => ?_⟩
  rw [← BitVec.xor_eq_zero_iff, ← hdiff i hia hib, BitVec.xor_eq_zero_iff]

section ExecApply

variable {s : State}

/-- 41_keystream_generator.md R143, R144: `DLEN` is 8 bits, far below what the default can serve. -/
theorem cipherReady_of_chacha20 (hks : s.params.ks = .chacha20) : s.cipherReady := by
  rw [State.cipherReady, hks, ← chacha20_room]
  exact ⟨rfl, by have := s.dlen.isLt; omega⟩

/-- `D` after a successful `APPLY`: the data with the keystream on it, over the first bytes of the old `D`. -/
def appliedD (s : State) : Memory :=
  s.d.writeBytes 0 (xorBytes (desData s) (keystream s.params.ks s.key.toList s.n.toList (desData s).length))

theorem execApply_of_ready (hcap : s.dlen.toNat ≤ s.params.dcap.val) (hready : s.cipherReady) :
    execApply s = .next ((s.setD (appliedD s)).setStatus 0#8) := by
  obtain ⟨hok, hroom⟩ := hready
  obtain ⟨hlt, _⟩ | ⟨_, ⟨hrefused, _⟩ | ⟨_, hlong, _⟩ | ⟨_, _, he⟩⟩ := execApply_cases s
  · exact absurd hcap (not_le.mpr hlt)
  · cases hok.symm.trans hrefused
  · exact absurd hroom (not_le.mpr hlong)
  · rwa [appliedD, desData_length]

theorem execApply_of_refused (hcap : s.dlen.toNat ≤ s.params.dcap.val)
    (hks : ksInitOk s.params.ks s.key.toList s.n.toList = false) : execApply s = .next (s.setStatus 5#8) := by
  obtain ⟨hlt, _⟩ | ⟨_, ⟨_, he⟩ | ⟨hok, _⟩ | ⟨hok, _⟩⟩ := execApply_cases s
  · exact absurd hcap (not_le.mpr hlt)
  · exact he
  all_goals cases hok.symm.trans hks

theorem appliedD_wf (hwf : s.d.wf = true) : (appliedD s).wf = true := Memory.writeBytes_wf hwf _ _

theorem appliedD_read_of_lt {i : Nat} (hwf : s.d.wf = true) (hi : i < s.dlen.toNat) :
    (appliedD s).read i = s.d.read i ^^^
      byteAt (ksBlock s.params.ks s.key.toList s.n.toList (i / ksBlockLen s.params.ks)) (i % ksBlockLen s.params.ks) := by
  have hdata : i < (desData s).length := by rwa [desData_length]
  rw [appliedD, read_writeBytes_zero_of_lt hwf (by rwa [xorBytes_keystream_length]), byteAt_xorBytes_keystream hdata,
    byteAt_desData hi]

theorem appliedD_read_of_ge {a : Nat} (hwf : s.d.wf = true) (ha : s.dlen.toNat ≤ a) : (appliedD s).read a = s.d.read a :=
  read_writeBytes_zero_of_ge hwf (by rwa [xorBytes_keystream_length, desData_length])

end ExecApply

/-- Settles O30: the new `D` is `appliedD`, read inside and past the data. -/
theorem applyXorsTheKeystream : Obligations.ApplyXorsTheKeystream := fun _ hwf hcap =>
  ⟨cipherReady_of_chacha20,
    fun hready => ⟨_, execApply_of_ready hcap hready, appliedD_wf hwf, fun _ => appliedD_read_of_lt hwf,
      fun _ => appliedD_read_of_ge hwf⟩,
    execApply_of_refused hcap⟩

end Sys2Proof.Machine

/-! The nonce sequencer (43_nonce_sequencer.md): a nonce as a function of `DEVID` and the counter, and a run of `NEXTN`s
as the iterate of the state update that one `NEXTN` makes. -/

namespace Sys2Proof.Machine

section Nonce

variable (devid : Vector Byte 4) (c : DWord)

/-- The nonce register after `next_nonce` at counter `c`. -/
def nonceAt : Vector Byte 12 := nonceOfBytes (nextNonce devid.toList c).1

theorem nonceAt_toList : (nonceAt devid c).toList = devid.toList ++ be64 c :=
  nonceOfBytes_toList (by simp [nextNonce])

theorem nonceAt_getElem_devid {i : Nat} (hi : i < 4) : (nonceAt devid c)[i] = devid[i] := by
  have hlen : i < devid.toList.length := by simpa using hi
  rw [nonceAt, nextNonce, nonceOfBytes_getElem, byteAt, List.getD_append _ _ _ _ hlen, List.getD_eq_getElem _ _ hlen,
    Vector.getElem_toList]

theorem nonceAt_getElem_ctr {k : Nat} (hk : k < 8) : (nonceAt devid c)[4 + k] = c.extractLsb' (56 - 8 * k) 8 := by
  have hpos : 56 - 8 * k = 8 * (7 - k) := by omega
  rw [nonceAt, nextNonce, nonceOfBytes_getElem, byteAt, List.getD_append_right _ _ _ _ (by simp), Vector.length_toList,
    Nat.add_sub_cancel_left, be64_getD c k hk, byteOf, hpos]

variable {devid c}

/-- Of one device the nonce determines the counter. -/
theorem nonceAt_inj {e : DWord} : nonceAt devid c = nonceAt devid e ↔ c = e := by
  rw [← Vector.toList_inj, nonceAt_toList, nonceAt_toList, List.append_cancel_left_eq]
  exact ⟨be64_injective, congrArg be64⟩

end Nonce

section Nextn

variable (s : State) (t : Nat)

/-- The state after `NEXTN`. -/
def afterNextn (s : State) : State := ((s.setN (nonceAt s.devid s.ctr)).setCtr (s.ctr + 1#64)).setStatus 0#8

theorem exec_nextn : exec .nextn s = .next (afterNextn s) := execNextn_eq s

@[simp] theorem afterNextn_n : (afterNextn s).n = nonceAt s.devid s.ctr := rfl
@[simp] theorem afterNextn_ctr : (afterNextn s).ctr = s.ctr + 1#64 := rfl
@[simp] theorem afterNextn_devid : (afterNextn s).devid = s.devid := rfl

theorem execAll_replicate_nextn : execAll (List.replicate t .nextn) s = .next (afterNextn^[t] s) := by
  induction t generalizing s with
  | zero => rfl
  | succ t ih =>
    rw [List.replicate_succ, execAll, exec_nextn, Function.iterate_succ_apply]
    exact ih (afterNextn s)

theorem iterate_afterNextn_devid : (afterNextn^[t] s).devid = s.devid := by
  induction t with
  | zero => rfl
  | succ t ih => rw [Function.iterate_succ_apply', afterNextn_devid, ih]

theorem iterate_afterNextn_ctr : (afterNextn^[t] s).ctr = s.ctr + BitVec.ofNat 64 t := by
  induction t with
  | zero => exact (BitVec.add_zero s.ctr).symm
  | succ t ih => rw [Function.iterate_succ_apply', afterNextn_ctr, ih, BitVec.add_assoc, ← BitVec.ofNat_add]

/-- Call `t`, counted from 0, emits the nonce of the counter that `t` calls have moved. -/
theorem iterate_afterNextn_n : (afterNextn^[t + 1] s).n = nonceAt s.devid (s.ctr + BitVec.ofNat 64 t) := by
  rw [Function.iterate_succ_apply', afterNextn_n, iterate_afterNextn_devid, iterate_afterNextn_ctr]

end Nextn

/-- Settles O32: the nonce is `nonceAt`, read in its two parts. -/
theorem nextnEmitsTheNonce : Obligations.NextnEmitsTheNonce := fun s =>
  ⟨_, exec_nextn s, fun _ => nonceAt_getElem_devid s.devid s.ctr, fun _ => nonceAt_getElem_ctr s.devid s.ctr,
    BitVec.toNat_add s.ctr 1#64⟩

/-- Settles O33: call `t` emits the nonce of counter `c0 + t` modulo 2^64, and the nonce determines that counter. -/
theorem noncesOfARunAreDistinct : Obligations.NoncesOfARunAreDistinct := by
  intro s
  refine ⟨fun t => ⟨_, execAll_replicate_nextn s (t + 1), ?emitted⟩, fun t u =>
    ⟨_, _, execAll_replicate_nextn s (t + 1), execAll_replicate_nextn s (u + 1), ?sameNonce⟩⟩
  case emitted =>
    rw [iterate_afterNextn_n, nonceAt_toList, BitVec.ofNat_add, BitVec.ofNat_toNat, BitVec.setWidth_eq]
  case sameNonce =>
    calc (afterNextn^[t + 1] s).n = (afterNextn^[u + 1] s).n
      _ ↔ s.ctr + BitVec.ofNat 64 t = s.ctr + BitVec.ofNat 64 u := by
        rw [iterate_afterNextn_n, iterate_afterNextn_n, nonceAt_inj]
      _ ↔ BitVec.ofNat 64 t = BitVec.ofNat 64 u := BitVec.add_right_inj s.ctr
      _ ↔ t % 2 ^ 64 = u % 2 ^ 64 := by rw [← BitVec.toNat_inj, BitVec.toNat_ofNat, BitVec.toNat_ofNat]

end Sys2Proof.Machine

/-! The packet framer (44_packet_framer.md): a packet cut at an offset and put together again, one equation for each answer
of `build_packet` and `parse_packet`, and the commands `BUILD` and `PARSE` on the buffers `D` and `P`. -/

namespace Sys2Proof.Machine

/-! ## Packets as strings -/

section Cut

variable (a b : Bytes) {i : Nat}

theorem slice_zero_length : slice a 0 a.length = a := by
  rw [slice, List.drop_zero, Nat.sub_zero, List.take_length]

theorem slice_append_left : slice (a ++ b) 0 a.length = a := by
  rw [slice, List.drop_zero, Nat.sub_zero, List.take_left]

theorem slice_append_right : slice (a ++ b) a.length (a ++ b).length = b := by
  rw [slice, List.drop_left, List.length_append, Nat.add_sub_cancel_left, List.take_length]

variable {a}

theorem byteAt_append_of_lt (hi : i < a.length) : byteAt (a ++ b) i = byteAt a i := List.getD_append _ _ _ _ hi

theorem byteAt_append_add {n : Nat} (ha : a.length = n) : byteAt (a ++ b) (n + i) = byteAt b i := by
  rw [byteAt, List.getD_append_right _ _ _ _ (by omega), ha, Nat.add_sub_cancel_left, byteAt]

end Cut

section Functions

variable {nonce ct raw : Bytes} {cap : Nat}

theorem buildPacket_of_le (h : nonce.length + ct.length ≤ cap) :
    buildPacket nonce ct cap = .ok (nonce ++ ct, nonce.length + ct.length) := if_neg (not_lt.mpr h)

theorem parsePacket_of_le (h : 20 ≤ raw.length) : parsePacket raw = .ok (slice raw 0 12, slice raw 12 raw.length) :=
  if_neg (not_lt.mpr h)

/-- `parse_packet` always splits at 12. -/
theorem nonce_length_of_parsePacket (h : parsePacket raw = .ok (nonce, ct)) : nonce.length = 12 := by
  rcases parsePacket_cases raw with ⟨_, he⟩ | ⟨hlen, he⟩
  · cases h.symm.trans he
  · cases h.symm.trans he
    rw [slice_length]
    omega

theorem parsePacket_append (hnonce : nonce.length = 12) (hct : 8 ≤ ct.length) :
    parsePacket (nonce ++ ct) = .ok (nonce, ct) := by
  have hlen : 20 ≤ (nonce ++ ct).length := by rw [List.length_append]; omega
  rw [parsePacket_of_le hlen, ← hnonce, slice_append_left, slice_append_right]

theorem buildPacket_slices (h : 12 ≤ raw.length) :
    buildPacket (slice raw 0 12) (slice raw 12 raw.length) raw.length = .ok (raw, raw.length) := by
  have hjoin : slice raw 0 12 ++ slice raw 12 raw.length = raw := by
    rw [slice_append_slice (by omega) h, slice_zero_length]
  have hlen : (slice raw 0 12).length + (slice raw 12 raw.length).length = raw.length := by
    rw [← List.length_append, hjoin]
  rw [buildPacket_of_le hlen.le, hjoin, hlen]

end Functions

/-- Settles O38: the cut is where the two parts were joined, and the third clause is that the cut
is at 12 whatever the packet was built from. -/
theorem framerInverseLaws : Obligations.FramerInverseLaws := by
  refine ⟨fun nonce ct cap hnonce hct hcap => ?parseBuilt, fun raw hraw => ?buildParsed,
    fun nonce ct pkt cap len hnonce _ hparse => hnonce (nonce_length_of_parsePacket hparse)⟩
  case parseBuilt =>
    exact ⟨_, _, buildPacket_of_le hcap, List.length_append.symm, parsePacket_append hnonce hct⟩
  case buildParsed =>
    exact ⟨_, _, parsePacket_of_le hraw, buildPacket_slices (by omega)⟩

/-- A length within a capacity is not cut by its 8-bit register. -/
theorem toNat_ofNat_of_le_capacity {n : Nat} {prm : Params} {b : Buf} (h : n ≤ capacity prm b) :
    (BitVec.ofNat 8 n).toNat = n := by
  rw [BitVec.toNat_ofNat, Nat.mod_eq_of_lt (h.trans_lt (capacity_lt prm b))]

/-! ## `BUILD` -/

section Build

variable {s : State} {i : Nat}

/-- The packet `BUILD` frames. -/
def framedPacket (s : State) : Bytes := s.n.toList ++ desData s

theorem framedPacket_length (s : State) : (framedPacket s).length = 12 + s.dlen.toNat := by
  rw [framedPacket, List.length_append, Vector.length_toList, desData_length]

theorem byteAt_framedPacket_nonce (hi : i < 12) : byteAt (framedPacket s) i = s.n[i] := by
  have hlen : i < s.n.toList.length := by rwa [Vector.length_toList]
  rw [framedPacket, byteAt_append_of_lt _ hlen, byteAt, List.getD_eq_getElem _ _ hlen, Vector.getElem_toList]

theorem byteAt_framedPacket_data (hi : i < s.dlen.toNat) : byteAt (framedPacket s) (12 + i) = s.d.read i := by
  rw [framedPacket, byteAt_append_add _ Vector.length_toList, byteAt_desData hi]

theorem execBuild_of_lt (hcap : s.dlen.toNat ≤ s.params.dcap.val) (h : s.params.pcap.val < 12 + s.dlen.toNat) :
    execBuild s = .next (s.setStatus 1#8) := by
  obtain ⟨hlt, _⟩ | ⟨_, ⟨_, he⟩ | ⟨hfits, _⟩⟩ := execBuild_cases s
  · exact absurd hcap (not_le.mpr hlt)
  · exact he
  · exact absurd hfits (not_le.mpr h)

theorem execBuild_of_le (hcap : s.dlen.toNat ≤ s.params.dcap.val) (h : 12 + s.dlen.toNat ≤ s.params.pcap.val) :
    execBuild s = .next (((s.setP (s.p.writeBytes 0 (framedPacket s))).setPlen
      (BitVec.ofNat 8 (12 + s.dlen.toNat))).setStatus 0#8) := by
  obtain ⟨hlt, _⟩ | ⟨_, ⟨hsmall, _⟩ | ⟨_, he⟩⟩ := execBuild_cases s
  · exact absurd hcap (not_le.mpr hlt)
  · exact absurd h (not_le.mpr hsmall)
  · exact he

end Build

/-- Settles O36: the new `P` is the old one with the framed packet over its first bytes, read in its two parts and past
it. -/
theorem buildFramesThePacket : Obligations.BuildFramesThePacket := by
  intro s hwf hcap
  have hlen := framedPacket_length s
  refine ⟨execBuild_of_lt hcap, fun hfits => ⟨_, _, execBuild_of_le hcap hfits, ?plen, Memory.writeBytes_wf hwf _ _,
    fun i hi => ?nonce, fun i hi => ?data, fun a ha => read_writeBytes_zero_of_ge hwf (hlen.trans_le ha)⟩⟩
  case plen => exact toNat_ofNat_of_le_capacity (b := .p) hfits
  case nonce => rw [read_writeBytes_zero_of_lt hwf (by omega), byteAt_framedPacket_nonce hi]
  case data => rw [read_writeBytes_zero_of_lt hwf (by omega), byteAt_framedPacket_data hi]

/-! ## `PARSE` -/

section Parse

variable {s : State} {i : Nat}

/-- The packet `PARSE` reads. -/
def heldPacket (s : State) : Bytes := s.p.readBytes 0 s.plen.toNat

/-- What `PARSE` takes for the ciphertext. -/
def heldCiphertext (s : State) : Bytes := slice (heldPacket s) 12 s.plen.toNat

theorem byteAt_heldPacket (hi : i < s.plen.toNat) : byteAt (heldPacket s) i = s.p.read i := by
  rw [byteAt, heldPacket, Memory.readBytes_getD, if_pos hi, zero_add]

theorem heldCiphertext_length (s : State) : (heldCiphertext s).length = s.plen.toNat - 12 := by
  rw [heldCiphertext, slice_length, heldPacket, Memory.readBytes_length, min_self]

theorem byteAt_heldCiphertext (hi : i < s.plen.toNat - 12) : byteAt (heldCiphertext s) i = s.p.read (12 + i) := by
  rw [heldCiphertext, byteAt_slice _ _ _ _ hi, byteAt_heldPacket (by omega)]

theorem nonceOfBytes_heldPacket_getElem (h12 : 12 ≤ s.plen.toNat) (hi : i < 12) :
    (nonceOfBytes (slice (heldPacket s) 0 12))[i] = s.p.read i := by
  rw [nonceOfBytes_getElem, byteAt_slice _ _ _ _ hi, zero_add, byteAt_heldPacket (by omega)]

theorem execParse_of_short (hcap : s.plen.toNat ≤ s.params.pcap.val) (h : s.plen.toNat < 20) :
    execParse s = .next (s.setStatus 6#8) := by
  obtain ⟨hlt, _⟩ | ⟨_, ⟨_, he⟩ | ⟨hlong, _⟩ | ⟨hlong, _⟩⟩ := execParse_cases s
  · exact absurd hcap (not_le.mpr hlt)
  · exact he
  all_goals exact absurd h (not_lt.mpr hlong)

theorem execParse_of_lt (hcap : s.plen.toNat ≤ s.params.pcap.val) (h20 : 20 ≤ s.plen.toNat)
    (h : s.params.dcap.val < s.plen.toNat - 12) : execParse s = .next (s.setStatus 1#8) := by
  obtain ⟨hlt, _⟩ | ⟨_, ⟨hshort, _⟩ | ⟨_, _, he⟩ | ⟨_, hfits, _⟩⟩ := execParse_cases s
  · exact absurd hcap (not_le.mpr hlt)
  · exact absurd h20 (not_le.mpr hshort)
  · exact he
  · exact absurd hfits (not_le.mpr h)

theorem execParse_of_le (hcap : s.plen.toNat ≤ s.params.pcap.val) (h20 : 20 ≤ s.plen.toNat)
    (h : s.plen.toNat - 12 ≤ s.params.dcap.val) :
    execParse s = .next ((((s.setD (s.d.writeBytes 0 (heldCiphertext s))).setN
      (nonceOfBytes (slice (heldPacket s) 0 12))).setDlen (BitVec.ofNat 8 (s.plen.toNat - 12))).setStatus 0#8) := by
  obtain ⟨hlt, _⟩ | ⟨_, ⟨hshort, _⟩ | ⟨_, hsmall, _⟩ | ⟨_, _, he⟩⟩ := execParse_cases s
  · exact absurd hcap (not_le.mpr hlt)
  · exact absurd h20 (not_le.mpr hshort)
  · exact absurd h (not_le.mpr hsmall)
  · exact he

end Parse

/-- Settles O37: the nonce and the new `D` are the two slices of the packet held in `P`, read back to the bytes of `P`. -/
theorem parseSplitsThePacket : Obligations.ParseSplitsThePacket := by
  intro s hwf hcap
  have hlen := heldCiphertext_length s
  refine ⟨execParse_of_short hcap, execParse_of_lt hcap, fun h20 hfits => ⟨_, _, _, execParse_of_le hcap h20 hfits, ?dlen,
    Memory.writeBytes_wf hwf _ _, fun i hi => nonceOfBytes_heldPacket_getElem (by omega) hi, fun i hi => ?data,
    fun a ha => read_writeBytes_zero_of_ge hwf (hlen.trans_le ha)⟩⟩
  case dlen => exact toNat_ofNat_of_le_capacity (b := .d) hfits
  case data => rw [read_writeBytes_zero_of_lt hwf (hi.trans_eq hlen.symm), byteAt_heldCiphertext hi]

end Sys2Proof.Machine

/-! The function pipelines (45_pipelines.md R206): `encrypt` as one exclusive or, and `decrypt` as its inverse, with and
without a packet in between. -/

namespace Sys2Proof.Machine

section FunctionPipelines

variable {ks : KsChoice} {c : Coord} {key nonce : Bytes}

theorem serializedLength_mem_range (c : Coord) : 9 ≤ serializedLength c ∧ serializedLength c ≤ 13 := by
  rcases serializedLength_bounds c with h | h <;> omega

theorem encryptFn_of_served (hkey : key.length = 32) (hnonce : nonce.length = 12) (hks : ksInitOk ks key nonce = true)
    (hroom : serializedLength c ≤ ksRoom ks) :
    encryptFn ks c key nonce =
      some (.ok (xorBytes (serializedBytes c) (keystream ks key nonce (serializedLength c)))) := by
  rw [encryptFn, serialize_of_le c (serializedLength_mem_range c).2]
  simpa using apply_of_served hkey hnonce hks ((serializedBytes_length c).trans_le hroom)

theorem decryptFn_of_apply {policy : FlagPolicy} {ct pt : Bytes} (h : apply ks key nonce ct = some (.ok pt)) :
    decryptFn ks policy ct key nonce = some (deserialize policy pt) := by
  rw [decryptFn, h]

/-- R210, the direct half: `apply` undoes itself, then deserialize undoes serialize. -/
theorem decryptFn_xorBytes_serializedBytes (policy : FlagPolicy) (hkey : key.length = 32) (hnonce : nonce.length = 12)
    (hks : ksInitOk ks key nonce = true) (hroom : serializedLength c ≤ ksRoom ks) :
    decryptFn ks policy (xorBytes (serializedBytes c) (keystream ks key nonce (serializedLength c))) key nonce =
      some (.ok c) := by
  have hlen := serializedBytes_length c
  obtain ⟨ct, hct, hpt⟩ := applyIsSelfInverse ks key nonce (serializedBytes c) hkey hnonce hks (hlen.trans_le hroom)
  obtain rfl := eq_xorBytes_of_apply hct
  rw [hlen] at hpt
  rw [decryptFn_of_apply hpt, deserialize_serializedBytes]

end FunctionPipelines

/-- Settles O52: a ciphertext of 9 or 13 bytes meets the bounds of the framer's first inverse law. -/
theorem encryptDecryptRoundTrip : Obligations.EncryptDecryptRoundTrip := by
  intro ks policy c key nonce hkey hnonce hks hroom
  obtain ⟨h9, h13⟩ := serializedLength_mem_range c
  have hserved : serializedLength c ≤ ksRoom ks := h13.trans hroom
  have hdec := decryptFn_xorBytes_serializedBytes policy hkey hnonce hks hserved
  have hlen : (xorBytes (serializedBytes c) (keystream ks key nonce (serializedLength c))).length =
      serializedLength c := by
    rw [xorBytes_length, serializedBytes_length, keystream_length, min_self]
  obtain ⟨hparseBuilt, _⟩ := framerInverseLaws
  obtain ⟨pkt, len, hbuild, _, hparse⟩ :=
    hparseBuilt nonce _ 25 hnonce (by rw [hlen]; omega) (by rw [hnonce, hlen]; omega)
  exact ⟨_, encryptFn_of_served hkey hnonce hks hserved, hdec, pkt, len, hbuild, nonce, _, hparse, rfl, hdec⟩

end Sys2Proof.Machine

/-! Running a sequence of the port (45_pipelines.md R212): each step takes the first action off, and the state it leaves
holds the rest of the sequence unless a command failed or nothing is left. -/

namespace Sys2Proof.Machine

/-- `s` with a sequence placed at the front of the host's list. -/
def State.queue (as : List HostAction) (s : State) : State := s.setPending (.whileOk as :: s.pending)

theorem eq_queue_of_pending {s : State} {as : List HostAction} {rest : List PortItem}
    (h : s.pending = .whileOk as :: rest) : s = (s.setPending rest).queue as := by
  rw [State.queue, State.setPending_pending, ← h]
  rfl

theorem decodeCode_encodeCode (i : Instr) : decodeCode (encodeCode i) = .ok i := by
  cases i <;> rfl

section Sequence

variable {s t : State} {a : HostAction} {as : List HostAction} {i : Instr}

theorem runSteps_one (h : step s = .next t) : runSteps 1 s = .next t := by
  rw [runSteps, h]
  rfl

theorem runSteps_succ (h : step s = .next t) (k : Nat) : runSteps (k + 1) s = runSteps k t := by
  rw [runSteps, h]

theorem step_queue_cons (h : perform a s = .next t) : step (s.queue (a :: as)) = .next (continueWhileOk a as t) := by
  have hstep : step (s.queue (a :: as)) = performItem (.whileOk (a :: as)) s := step_cons (State.setPending_pending _ _)
  rw [hstep, performItem, h]

theorem continueWhileOk_nil (a : HostAction) (s : State) : continueWhileOk a [] s = s := by
  simp [continueWhileOk]

theorem continueWhileOk_of_ok (hok : a.isIssue = true → s.status = 0#8) (has : as ≠ []) :
    continueWhileOk a as s = s.queue as := by
  have hgoOn : (a.isIssue && decide (s.status ≠ okCode)) = false := by
    cases ha : a.isIssue with
    | false => rfl
    | true => simp [hok ha, okCode]
  rw [continueWhileOk, hgoOn, List.isEmpty_eq_false_iff.mpr has]
  rfl

theorem perform_issue (i : Instr) (s : State) : perform (.issue (encodeCode i)) s = exec i s :=
  issue_of_decode (decodeCode_encodeCode i) s

theorem runSteps_queue_issue (h : exec i s = .next t) (hok : t.status = 0#8) (has : as ≠ []) (k : Nat) :
    runSteps (k + 1) (s.queue (.issue (encodeCode i) :: as)) = runSteps k (t.queue as) := by
  rw [runSteps_succ (step_queue_cons ((perform_issue i s).trans h)), continueWhileOk_of_ok (fun _ => hok) has]

/-- The last command of a sequence ends it, whatever its `STATUS`. -/
theorem runSteps_queue_last (h : exec i s = .next t) : runSteps 1 (s.queue [.issue (encodeCode i)]) = .next t := by
  rw [runSteps_one (step_queue_cons ((perform_issue i s).trans h)), continueWhileOk_nil]

theorem runSteps_queue_failed (h : exec i s = .next t) (hfailed : t.status ≠ 0#8) :
    runSteps 1 (s.queue (.issue (encodeCode i) :: as)) = .next t := by
  rw [runSteps_one (step_queue_cons ((perform_issue i s).trans h)), continueWhileOk_issue_of_failed hfailed]

theorem perform_writeN {j : Nat} (hj : j < 12) (v : Byte) (s : State) :
    perform (.writeN j v) s = .next (s.setN (s.n.set j v hj)) := dif_pos hj

/-- The writes of `w` from byte `i` on complete it in `N`, when the bytes below `i` are already there. -/
theorem runSteps_queue_writeN (w : Vector Byte 12) {bs : Bytes} {i : Nat} (hbs : w.toList.drop i = bs)
    (hbelow : ∀ (j : Nat) (hj : j < 12), j < i → s.n[j] = w[j]) (has : as ≠ []) (k : Nat) :
    runSteps (bs.length + k) (s.queue (writeNActions i bs ++ as)) = runSteps k ((s.setN w).queue as) := by
  induction bs generalizing i s with
  | nil =>
    have hi : 12 ≤ i := by simpa using hbs
    have hn : s.n = w := Vector.ext fun j hj => hbelow j hj (by omega)
    rw [← hn, List.length_nil, Nat.zero_add]
    rfl
  | cons b rest ih =>
    have hi : i < 12 := by
      by_contra hge
      rw [List.drop_eq_nil_of_le (by simpa using hge)] at hbs
      cases hbs
    rw [List.drop_eq_getElem_cons (by simpa using hi), Vector.getElem_toList] at hbs
    obtain ⟨rfl, hrest⟩ := List.cons.inj hbs
    have hbelow' (j : Nat) (hj : j < 12) (hji : j < i + 1) : (s.setN (s.n.set i w[i])).n[j] = w[j] := by
      rw [State.setN_n, Vector.getElem_set]
      split
      · next hij => subst hij; rfl
      · exact hbelow j hj (by omega)
    have hmore : writeNActions (i + 1) rest ++ as ≠ [] := List.append_ne_nil_of_right_ne_nil _ has
    have hnoCommand : (HostAction.writeN i w[i]).isIssue ≠ true := Bool.false_ne_true
    calc runSteps ((w[i] :: rest).length + k) (s.queue (writeNActions i (w[i] :: rest) ++ as))
      _ = runSteps (rest.length + k + 1) (s.queue (.writeN i w[i] :: (writeNActions (i + 1) rest ++ as))) := by
        rw [List.length_cons, Nat.add_right_comm]
        rfl
      _ = runSteps (rest.length + k) ((s.setN (s.n.set i w[i])).queue (writeNActions (i + 1) rest ++ as)) := by
        rw [runSteps_succ (step_queue_cons (perform_writeN hi _ s)), continueWhileOk_of_ok (absurd · hnoCommand) hmore]
      _ = runSteps k ((s.setN w).queue as) := ih hrest hbelow'

end Sequence

end Sys2Proof.Machine

/-! The sender (45_pipelines.md R207, R208): the two forms of `ENCRYPT` differ in where `N` comes from and in `CTR`, and
meet in the state `loaded`, from which `APPLY` and `BUILD` go on to `sealed`. -/

namespace Sys2Proof.Machine

section Commands

variable {s : State}

/-- The state after a `SER` whose record fits `D`. -/
def afterSer (s : State) : State :=
  ((s.setD (s.d.writeBytes 0 (serializedBytes (stagedCoord s)))).setDlen (if s.af then 13#8 else 9#8)).setStatus 0#8

/-- The state after an `APPLY` that the keystream function serves. -/
def afterApply (s : State) : State := (s.setD (appliedD s)).setStatus 0#8

/-- The state after `BUILD`, whether the packet fits `P` or not. -/
def afterBuild (s : State) : State :=
  if 12 + s.dlen.toNat ≤ s.params.pcap.val then
    ((s.setP (s.p.writeBytes 0 (framedPacket s))).setPlen (BitVec.ofNat 8 (12 + s.dlen.toNat))).setStatus 0#8
  else s.setStatus 1#8

section Fields

variable (s : State)
@[simp] theorem afterSer_params : (afterSer s).params = s.params := by simp [afterSer]
@[simp] theorem afterSer_key : (afterSer s).key = s.key := by simp [afterSer]
@[simp] theorem afterSer_devid : (afterSer s).devid = s.devid := by simp [afterSer]
@[simp] theorem afterSer_ctr : (afterSer s).ctr = s.ctr := by simp [afterSer]
@[simp] theorem afterSer_d : (afterSer s).d = s.d.writeBytes 0 (serializedBytes (stagedCoord s)) := by simp [afterSer]
@[simp] theorem afterSer_p : (afterSer s).p = s.p := by simp [afterSer]
@[simp] theorem afterSer_plen : (afterSer s).plen = s.plen := by simp [afterSer]
@[simp] theorem afterSer_status : (afterSer s).status = 0#8 := by simp [afterSer]
@[simp] theorem afterApply_params : (afterApply s).params = s.params := by simp [afterApply]
@[simp] theorem afterApply_ctr : (afterApply s).ctr = s.ctr := by simp [afterApply]
@[simp] theorem afterApply_n : (afterApply s).n = s.n := by simp [afterApply]
@[simp] theorem afterApply_d : (afterApply s).d = appliedD s := by simp [afterApply]
@[simp] theorem afterApply_dlen : (afterApply s).dlen = s.dlen := by simp [afterApply]
@[simp] theorem afterApply_p : (afterApply s).p = s.p := by simp [afterApply]
@[simp] theorem afterApply_plen : (afterApply s).plen = s.plen := by simp [afterApply]
@[simp] theorem afterApply_status : (afterApply s).status = 0#8 := by simp [afterApply]
end Fields

theorem exec_ser (h : recordLength s.af ≤ s.params.dcap.val) : exec .ser s = .next (afterSer s) := execSer_of_le h

theorem exec_apply (hcap : s.dlen.toNat ≤ s.params.dcap.val) (hready : s.cipherReady) :
    exec .apply s = .next (afterApply s) := execApply_of_ready hcap hready

theorem afterBuild_of_le (h : 12 + s.dlen.toNat ≤ s.params.pcap.val) :
    afterBuild s = ((s.setP (s.p.writeBytes 0 (framedPacket s))).setPlen
      (BitVec.ofNat 8 (12 + s.dlen.toNat))).setStatus 0#8 := if_pos h

theorem afterBuild_of_lt (h : s.params.pcap.val < 12 + s.dlen.toNat) : afterBuild s = s.setStatus 1#8 :=
  if_neg (not_le.mpr h)

theorem exec_build (hcap : s.dlen.toNat ≤ s.params.dcap.val) : exec .build s = .next (afterBuild s) := by
  rcases le_or_gt (12 + s.dlen.toNat) s.params.pcap.val with hfits | hsmall
  · rw [afterBuild_of_le hfits]
    exact execBuild_of_le hcap hfits
  · rw [afterBuild_of_lt hsmall]
    exact execBuild_of_lt hcap hsmall

theorem afterBuild_frame (s : State) :
    afterBuild s = ((s.setP (afterBuild s).p).setPlen (afterBuild s).plen).setStatus (afterBuild s).status := by
  rcases le_or_gt (12 + s.dlen.toNat) s.params.pcap.val with hfits | hsmall
  · rw [afterBuild_of_le hfits]
    rfl
  · rw [afterBuild_of_lt hsmall]
    rfl

@[simp] theorem afterBuild_ctr (s : State) : (afterBuild s).ctr = s.ctr := by rw [afterBuild_frame]; simp
@[simp] theorem afterBuild_n (s : State) : (afterBuild s).n = s.n := by rw [afterBuild_frame]; simp
@[simp] theorem afterBuild_d (s : State) : (afterBuild s).d = s.d := by rw [afterBuild_frame]; simp
@[simp] theorem afterBuild_dlen (s : State) : (afterBuild s).dlen = s.dlen := by rw [afterBuild_frame]; simp

/-- R195 on the state after a `BUILD` whose packet fits. -/
theorem afterBuild_packet (hwf : s.p.wf = true) (h : 12 + s.dlen.toNat ≤ s.params.pcap.val) :
    (afterBuild s).plen.toNat = 12 + s.dlen.toNat ∧
      (afterBuild s).p.readBytes 0 (12 + s.dlen.toNat) = s.n.toList ++ s.d.readBytes 0 s.dlen.toNat ∧
      (∀ a, 12 + s.dlen.toNat ≤ a → (afterBuild s).p.read a = s.p.read a) ∧ (afterBuild s).status = 0#8 := by
  have hlen := framedPacket_length s
  rw [afterBuild_of_le h]
  refine ⟨toNat_ofNat_of_le_capacity (b := .p) h, ?_,
    fun a ha => read_writeBytes_zero_of_ge hwf (hlen.trans_le ha), rfl⟩
  rw [← hlen]
  exact Memory.readBytes_writeBytes hwf 0 (framedPacket s)

theorem afterSer_dlen_toNat (s : State) : (afterSer s).dlen.toNat = recordLength s.af := by
  rw [afterSer, State.setStatus_dlen, State.setDlen_dlen]
  cases s.af <;> rfl

theorem desData_afterSer (hwf : s.d.wf = true) : desData (afterSer s) = serializedBytes (stagedCoord s) := by
  have hlen : (afterSer s).dlen.toNat = (serializedBytes (stagedCoord s)).length := by
    rw [afterSer_dlen_toNat, serializedBytes_length, serializedLength_eq_recordLength, stagedCoord_alt_isSome]
  rw [desData, hlen]
  exact Memory.readBytes_writeBytes hwf 0 _

theorem afterSer_read_of_ge {a : Nat} (hwf : s.d.wf = true) (ha : recordLength s.af ≤ a) :
    (afterSer s).d.read a = s.d.read a := by
  refine read_writeBytes_zero_of_ge hwf ?_
  rwa [serializedBytes_length, serializedLength_eq_recordLength, stagedCoord_alt_isSome]

theorem appliedD_readBytes (hwf : s.d.wf = true) :
    (appliedD s).readBytes 0 s.dlen.toNat =
      xorBytes (desData s) (keystream s.params.ks s.key.toList s.n.toList s.dlen.toNat) := by
  have hread := Memory.readBytes_writeBytes hwf 0
    (xorBytes (desData s) (keystream s.params.ks s.key.toList s.n.toList (desData s).length))
  rw [xorBytes_keystream_length, desData_length] at hread
  rw [appliedD, desData_length, hread]

end Commands

/-! ## The common end of the two forms -/

section Sealed

variable (s : State) (w : Vector Byte 12) (c : DWord)

/-- The record serialized in `D`, the nonce `w` in `N` and `CTR` at `c`. -/
def loaded : State := ((afterSer s).setN w).setCtr c

/-- `loaded` after `APPLY` and `BUILD`. -/
def sealed : State := afterBuild (afterApply (loaded s w c))

@[simp] theorem loaded_params : (loaded s w c).params = s.params := by simp [loaded]
@[simp] theorem loaded_key : (loaded s w c).key = s.key := by simp [loaded]
@[simp] theorem loaded_ctr : (loaded s w c).ctr = c := by simp [loaded]
@[simp] theorem loaded_n : (loaded s w c).n = w := by simp [loaded]
@[simp] theorem loaded_d : (loaded s w c).d = (afterSer s).d := by simp [loaded]
@[simp] theorem loaded_dlen : (loaded s w c).dlen = (afterSer s).dlen := by simp [loaded]
@[simp] theorem loaded_p : (loaded s w c).p = s.p := by simp [loaded]
@[simp] theorem loaded_plen : (loaded s w c).plen = s.plen := by simp [loaded]
@[simp] theorem loaded_status : (loaded s w c).status = 0#8 := by simp [loaded]

theorem loaded_dlen_toNat : (loaded s w c).dlen.toNat = recordLength s.af := by
  rw [loaded_dlen, afterSer_dlen_toNat]

theorem loaded_d_wf (hwf : s.d.wf = true) : (loaded s w c).d.wf = true := by
  rw [loaded_d, afterSer_d]
  exact Memory.writeBytes_wf hwf _ _

theorem sealed_ctr : (sealed s w c).ctr = c := by simp [sealed]

theorem sealed_n : (sealed s w c).n = w := by simp [sealed]

theorem sealed_d : (sealed s w c).d = appliedD (loaded s w c) := by simp [sealed]

theorem sealed_dlen_toNat : (sealed s w c).dlen.toNat = recordLength s.af := by simp [sealed, afterSer_dlen_toNat]

/-- Nothing but `N`, `CTR`, `D`, `DLEN`, `P`, `PLEN` and `STATUS` changes. -/
theorem sealed_frame (rest : List PortItem) {t : State} (ht : t = sealed (s.setPending rest) w c) :
    t = (((((((s.setN w).setCtr c).setD t.d).setDlen t.dlen).setP t.p).setPlen t.plen).setStatus
      t.status).setPending rest := by
  subst ht
  refine (afterBuild_frame _).trans ?_
  apply State.ext_fields <;> simp [sealed, afterApply, loaded, afterSer]

variable {s}

theorem sealed_d_readBytes (hwf : s.d.wf = true) :
    (sealed s w c).d.readBytes 0 (recordLength s.af) =
      xorBytes (serializedBytes (stagedCoord s)) (keystream s.params.ks s.key.toList w.toList (recordLength s.af)) := by
  have hdata : desData (loaded s w c) = serializedBytes (stagedCoord s) := by
    rw [← desData_afterSer hwf, desData, loaded_d, loaded_dlen, desData]
  have happlied := appliedD_readBytes (loaded_d_wf s w c hwf)
  rw [loaded_dlen_toNat, hdata, loaded_params, loaded_key, loaded_n] at happlied
  rw [sealed_d, happlied]

theorem sealed_d_read_of_ge {a : Nat} (hwf : s.d.wf = true) (ha : recordLength s.af ≤ a) :
    (sealed s w c).d.read a = s.d.read a := by
  rw [sealed_d, appliedD_read_of_ge (loaded_d_wf s w c hwf) (by rwa [loaded_dlen_toNat]), loaded_d,
    afterSer_read_of_ge hwf ha]

theorem sealed_of_le (hwf : s.p.wf = true) (h : 12 + recordLength s.af ≤ s.params.pcap.val) :
    (sealed s w c).plen.toNat = 12 + recordLength s.af ∧
      (sealed s w c).p.readBytes 0 (12 + recordLength s.af) =
        w.toList ++ (sealed s w c).d.readBytes 0 (recordLength s.af) ∧
      (∀ a, 12 + recordLength s.af ≤ a → (sealed s w c).p.read a = s.p.read a) ∧ (sealed s w c).status = 0#8 := by
  have hpacket := afterBuild_packet (s := afterApply (loaded s w c)) (by simpa using hwf)
    (by simpa [afterSer_dlen_toNat] using h)
  simpa [sealed, afterSer_dlen_toNat] using hpacket

theorem sealed_of_lt (h : s.params.pcap.val < 12 + recordLength s.af) :
    (sealed s w c).p = s.p ∧ (sealed s w c).plen = s.plen ∧ (sealed s w c).status = 1#8 := by
  rw [sealed, afterBuild_of_lt (by simpa [afterSer_dlen_toNat] using h)]
  simp

theorem runSteps_queue_apply_build (hcap : recordLength s.af ≤ s.params.dcap.val)
    (hks : ksInitOk s.params.ks s.key.toList w.toList = true) (hroom : recordLength s.af ≤ ksRoom s.params.ks) :
    runSteps 2 ((loaded s w c).queue [.issue 0x03#8, .issue 0x05#8]) = .next (sealed s w c) := by
  have hdlen := loaded_dlen_toNat s w c
  have hready : (loaded s w c).cipherReady := by
    simpa [State.cipherReady, afterSer_dlen_toNat] using And.intro hks hroom
  have happly : exec .apply (loaded s w c) = .next (afterApply (loaded s w c)) :=
    exec_apply (by simpa [afterSer_dlen_toNat] using hcap) hready
  have hbuild : exec .build (afterApply (loaded s w c)) = .next (sealed s w c) :=
    exec_build (by simpa [afterSer_dlen_toNat] using hcap)
  exact (runSteps_queue_issue happly (afterApply_status _) (List.cons_ne_nil _ _) 1).trans (runSteps_queue_last hbuild)

end Sealed

/-! ## The two forms -/

section Runs

variable {s : State} {rest : List PortItem} {as : List HostAction}

/-- A first `SER` that does not fit ends the sequence. -/
theorem runSteps_ser_of_lt (hpending : s.pending = .whileOk (.issue 0x01#8 :: as) :: rest)
    (h : s.params.dcap.val < recordLength s.af) : runSteps 1 s = .next ((s.setPending rest).setStatus 1#8) := by
  have hser : exec .ser (s.setPending rest) = .next ((s.setPending rest).setStatus 1#8) := execSer_of_lt h
  calc runSteps 1 s
    _ = runSteps 1 ((s.setPending rest).queue (.issue 0x01#8 :: as)) :=
      congrArg (runSteps 1) (eq_queue_of_pending hpending)
    _ = .next ((s.setPending rest).setStatus 1#8) := runSteps_queue_failed hser (by simp)

theorem runSteps_ser_of_le (hpending : s.pending = .whileOk (.issue 0x01#8 :: as) :: rest) (has : as ≠ [])
    (h : recordLength s.af ≤ s.params.dcap.val) (k : Nat) :
    runSteps (k + 1) s = runSteps k ((afterSer (s.setPending rest)).queue as) := by
  have hser : exec .ser (s.setPending rest) = .next (afterSer (s.setPending rest)) := exec_ser h
  calc runSteps (k + 1) s
    _ = runSteps (k + 1) ((s.setPending rest).queue (.issue 0x01#8 :: as)) :=
      congrArg (runSteps (k + 1)) (eq_queue_of_pending hpending)
    _ = runSteps k ((afterSer (s.setPending rest)).queue as) := runSteps_queue_issue hser (afterSer_status _) has k

theorem exec_nextn_afterSer (s : State) :
    exec .nextn (afterSer s) = .next (loaded s (nonceAt s.devid s.ctr) (s.ctr + 1#64)) := by
  have hloaded : afterNextn (afterSer s) = loaded s (nonceAt s.devid s.ctr) (s.ctr + 1#64) := by
    apply State.ext_fields <;> simp [afterNextn, loaded]
  rw [exec_nextn, hloaded]

/-- The nonce is drawn after `SER`, so `NEXTN` loads it. -/
theorem runSteps_encrypt (hpending : s.pending = encryptItem :: rest) (hcap : recordLength s.af ≤ s.params.dcap.val)
    (hks : ksInitOk s.params.ks s.key.toList (nonceAt s.devid s.ctr).toList = true)
    (hroom : recordLength s.af ≤ ksRoom s.params.ks) :
    runSteps 4 s = .next (sealed (s.setPending rest) (nonceAt s.devid s.ctr) (s.ctr + 1#64)) := by
  calc runSteps 4 s
    _ = runSteps 3 ((afterSer (s.setPending rest)).queue [.issue 0x04#8, .issue 0x03#8, .issue 0x05#8]) :=
      runSteps_ser_of_le hpending (List.cons_ne_nil _ _) hcap 3
    _ = runSteps 2 ((loaded (s.setPending rest) (nonceAt s.devid s.ctr) (s.ctr + 1#64)).queue
          [.issue 0x03#8, .issue 0x05#8]) :=
      runSteps_queue_issue (exec_nextn_afterSer (s.setPending rest)) (loaded_status ..) (List.cons_ne_nil _ _) 2
    _ = .next (sealed (s.setPending rest) (nonceAt s.devid s.ctr) (s.ctr + 1#64)) :=
      runSteps_queue_apply_build _ _ hcap hks hroom

theorem afterSer_setN (s : State) (w : Vector Byte 12) : (afterSer s).setN w = loaded s w s.ctr := by
  apply State.ext_fields <;> simp [loaded]

theorem runSteps_encryptSupplied {w : Vector Byte 12} (hpending : s.pending = encryptSuppliedItem w.toList :: rest)
    (hcap : recordLength s.af ≤ s.params.dcap.val) (hks : ksInitOk s.params.ks s.key.toList w.toList = true)
    (hroom : recordLength s.af ≤ ksRoom s.params.ks) :
    runSteps 15 s = .next (sealed (s.setPending rest) w s.ctr) := by
  have htail : ([.issue 0x03#8, .issue 0x05#8] : List HostAction) ≠ [] := List.cons_ne_nil _ _
  have hwrites := runSteps_queue_writeN (s := afterSer (s.setPending rest)) w List.drop_zero
    (fun _ _ hj => absurd hj (Nat.not_lt_zero _)) htail 2
  rw [Vector.length_toList, afterSer_setN] at hwrites
  calc runSteps 15 s
    _ = runSteps 14 ((afterSer (s.setPending rest)).queue
          (writeNActions 0 w.toList ++ [.issue 0x03#8, .issue 0x05#8])) :=
      runSteps_ser_of_le hpending (List.append_ne_nil_of_right_ne_nil _ htail) hcap 14
    _ = runSteps 2 ((loaded (s.setPending rest) w s.ctr).queue [.issue 0x03#8, .issue 0x05#8]) := hwrites
    _ = .next (sealed (s.setPending rest) w s.ctr) := runSteps_queue_apply_build _ _ hcap hks hroom

theorem serialize_stagedCoord_of_le (h : recordLength s.af ≤ s.params.dcap.val) :
    serialize (stagedCoord s) s.params.dcap.val = .ok (serializedBytes (stagedCoord s)) :=
  serialize_of_le _ ((serializedLength_stagedCoord s).trans_le h)

end Runs

/-- Settles O53: the end state is `sealed` with the nonce of the old counter, read register by register. -/
theorem encryptEndState : Obligations.EncryptEndState := by
  rintro s rest _ nonce hinv hpending rfl hnonce
  obtain rfl : nonce = (nonceAt s.devid s.ctr).toList := hnonce.trans (nonceAt_toList _ _).symm
  refine ⟨runSteps_ser_of_lt hpending, fun hcap hks hroom => ⟨_, _, serialize_stagedCoord_of_le hcap,
    runSteps_encrypt hpending hcap hks hroom, congrArg Vector.toList (sealed_n _ _ _), sealed_ctr _ _ _,
    sealed_dlen_toNat _ _ _, sealed_d_readBytes (s := s.setPending rest) _ _ hinv.d_wf,
    fun _ => sealed_d_read_of_ge (s := s.setPending rest) _ _ hinv.d_wf,
    sealed_of_le (s := s.setPending rest) _ _ hinv.p_wf, sealed_of_lt (s := s.setPending rest) _ _, ?frame⟩⟩
  case frame =>
    rw [sealed_n, sealed_ctr]
    exact sealed_frame s _ _ rest rfl

/-- Settles O54: the end state is `sealed` with the supplied nonce and the old counter. -/
theorem encryptWithSuppliedNonce : Obligations.EncryptWithSuppliedNonce := by
  rintro s rest _ nonce hinv hlen hpending rfl
  obtain ⟨w, rfl⟩ : ∃ w : Vector Byte 12, w.toList = nonce := ⟨nonceOfBytes nonce, nonceOfBytes_toList hlen⟩
  refine ⟨runSteps_ser_of_lt hpending, fun hcap hks hroom => ⟨_, _, serialize_stagedCoord_of_le hcap,
    runSteps_encryptSupplied hpending hcap hks hroom, sealed_ctr _ _ _, congrArg Vector.toList (sealed_n _ _ _),
    sealed_dlen_toNat _ _ _, sealed_d_readBytes (s := s.setPending rest) _ _ hinv.d_wf,
    fun _ => sealed_d_read_of_ge (s := s.setPending rest) _ _ hinv.d_wf,
    sealed_of_le (s := s.setPending rest) _ _ hinv.p_wf, sealed_of_lt (s := s.setPending rest) _ _, ?frame⟩⟩
  case frame =>
    have hctr : (s.setN w).setCtr s.ctr = s.setN w := rfl
    rw [sealed_n, ← hctr]
    exact sealed_frame s _ _ rest rfl

end Sys2Proof.Machine

/-! The receiver (45_pipelines.md R209) and the pair (R211): `PARSE` and `APPLY` go on to the state `opened`, and `DES`
decides the end. -/

namespace Sys2Proof.Machine

/-! ## Slices of what a buffer holds -/

theorem slice_readBytes (m : Memory) {off n i j : Nat} (hj : j ≤ n) :
    slice (m.readBytes off n) i j = m.readBytes (off + i) (j - i) := by
  refine List.ext_getElem (by simp; omega) fun k _ _ => ?_
  simp [slice, Memory.readBytes, Nat.add_assoc]

section Parse

variable {s : State}

theorem slice_heldPacket_nonce (h20 : 20 ≤ s.plen.toNat) : slice (heldPacket s) 0 12 = s.p.readBytes 0 12 :=
  slice_readBytes s.p (by omega)

theorem heldCiphertext_eq (s : State) : heldCiphertext s = s.p.readBytes 12 (s.plen.toNat - 12) := by
  rw [heldCiphertext, heldPacket, slice_readBytes s.p le_rfl, zero_add]

/-- The state after a `PARSE` that succeeds. -/
def afterParse (s : State) : State :=
  (((s.setD (s.d.writeBytes 0 (heldCiphertext s))).setN (nonceOfBytes (slice (heldPacket s) 0 12))).setDlen
    (BitVec.ofNat 8 (s.plen.toNat - 12))).setStatus 0#8

theorem exec_parse (hcap : s.plen.toNat ≤ s.params.pcap.val) (h20 : 20 ≤ s.plen.toNat)
    (h : s.plen.toNat - 12 ≤ s.params.dcap.val) : exec .parse s = .next (afterParse s) := execParse_of_le hcap h20 h

section Fields

variable (s : State)
@[simp] theorem afterParse_params : (afterParse s).params = s.params := by simp [afterParse]
@[simp] theorem afterParse_key : (afterParse s).key = s.key := by simp [afterParse]
@[simp] theorem afterParse_d : (afterParse s).d = s.d.writeBytes 0 (heldCiphertext s) := by simp [afterParse]
@[simp] theorem afterParse_status : (afterParse s).status = 0#8 := by simp [afterParse]
end Fields

theorem afterParse_n_toList (h20 : 20 ≤ s.plen.toNat) : (afterParse s).n.toList = s.p.readBytes 0 12 := by
  have hn : (afterParse s).n = nonceOfBytes (s.p.readBytes 0 12) := by
    simp [afterParse, slice_heldPacket_nonce h20]
  rw [hn, nonceOfBytes_toList (Memory.readBytes_length _ _ _)]

theorem afterParse_dlen_toNat (h : s.plen.toNat - 12 ≤ s.params.dcap.val) :
    (afterParse s).dlen.toNat = s.plen.toNat - 12 := toNat_ofNat_of_le_capacity (b := .d) h

theorem desData_afterParse (hwf : s.d.wf = true) (h : s.plen.toNat - 12 ≤ s.params.dcap.val) :
    desData (afterParse s) = heldCiphertext s := by
  rw [desData, afterParse_dlen_toNat h, ← heldCiphertext_length, afterParse_d, Memory.readBytes_writeBytes hwf]

end Parse

/-! ## `DES` last -/

section Des

variable {s : State}

/-- The state after `DES`, whether the data is a record or not. -/
def afterDes (s : State) : State :=
  match deserialize s.params.flagPolicy (desData s) with
  | .ok c => (putCoord c s).setStatus 0#8
  | .error _ => s.setStatus 2#8

theorem afterDes_of_ok {c : Coord} (h : deserialize s.params.flagPolicy (desData s) = .ok c) :
    afterDes s = (putCoord c s).setStatus 0#8 := by
  rw [afterDes, h]

theorem afterDes_of_error {e : CmdError} (h : deserialize s.params.flagPolicy (desData s) = .error e) :
    afterDes s = s.setStatus 2#8 := by
  rw [afterDes, h]

theorem exec_des (hcap : s.dlen.toNat ≤ s.params.dcap.val) : exec .des s = .next (afterDes s) := by
  cases hd : deserialize s.params.flagPolicy (desData s) with
  | ok c =>
    rw [afterDes_of_ok hd]
    exact execDes_of_ok hcap hd
  | error e =>
    obtain rfl := deserialize_error hd
    rw [afterDes_of_error hd]
    exact execDes_of_error hcap hd

/-- `DES` writes the record registers and `STATUS` only. -/
theorem afterDes_buffers (s : State) :
    (afterDes s).n = s.n ∧ (afterDes s).d = s.d ∧ (afterDes s).dlen = s.dlen := by
  cases hd : deserialize s.params.flagPolicy (desData s) with
  | ok c => simp [afterDes_of_ok hd]
  | error e => simp [afterDes_of_error hd]

end Des

/-! ## The run -/

section Opened

variable {s : State} {rest : List PortItem} {as : List HostAction}

/-- The packet's nonce in `N` and the decrypted bytes in `D`. -/
def opened (s : State) : State := afterApply (afterParse s)

/-- Nothing but `N`, `D`, `DLEN` and `STATUS` changes. -/
theorem opened_frame (s : State) (rest : List PortItem) :
    opened (s.setPending rest) = ((((s.setN (opened (s.setPending rest)).n).setD (opened (s.setPending rest)).d).setDlen
      (opened (s.setPending rest)).dlen).setStatus 0#8).setPending rest := by
  apply State.ext_fields <;> simp [opened, afterApply, afterParse]

theorem opened_n_toList (h20 : 20 ≤ s.plen.toNat) : (opened s).n.toList = s.p.readBytes 0 12 := by
  rw [opened, afterApply_n, afterParse_n_toList h20]

theorem opened_dlen_toNat (h : s.plen.toNat - 12 ≤ s.params.dcap.val) :
    (opened s).dlen.toNat = s.plen.toNat - 12 := by
  rw [opened, afterApply_dlen, afterParse_dlen_toNat h]

theorem afterParse_d_wf (hwf : s.d.wf = true) : (afterParse s).d.wf = true := by
  rw [afterParse_d]
  exact Memory.writeBytes_wf hwf _ _

theorem opened_d_readBytes (hwf : s.d.wf = true) (h20 : 20 ≤ s.plen.toNat)
    (h : s.plen.toNat - 12 ≤ s.params.dcap.val) :
    (opened s).d.readBytes 0 (s.plen.toNat - 12) =
      xorBytes (s.p.readBytes 12 (s.plen.toNat - 12))
        (keystream s.params.ks s.key.toList (s.p.readBytes 0 12) (s.plen.toNat - 12)) := by
  have happlied := appliedD_readBytes (afterParse_d_wf hwf)
  rw [afterParse_dlen_toNat h, desData_afterParse hwf h, heldCiphertext_eq, afterParse_n_toList h20, afterParse_params,
    afterParse_key] at happlied
  rw [opened, afterApply_d, happlied]

theorem opened_d_read_of_ge {a : Nat} (hwf : s.d.wf = true) (h : s.plen.toNat - 12 ≤ s.params.dcap.val)
    (ha : s.plen.toNat - 12 ≤ a) : (opened s).d.read a = s.d.read a := by
  rw [opened, afterApply_d, appliedD_read_of_ge (afterParse_d_wf hwf) (by rwa [afterParse_dlen_toNat h]), afterParse_d,
    read_writeBytes_zero_of_ge hwf (by rwa [heldCiphertext_length])]

/-- A first `PARSE` that fails ends the sequence. -/
theorem runSteps_parse_failed {code : Byte} (hpending : s.pending = .whileOk (.issue 0x06#8 :: as) :: rest)
    (hparse : exec .parse (s.setPending rest) = .next ((s.setPending rest).setStatus code)) (hcode : code ≠ 0#8) :
    runSteps 1 s = .next ((s.setPending rest).setStatus code) := by
  calc runSteps 1 s
    _ = runSteps 1 ((s.setPending rest).queue (.issue 0x06#8 :: as)) :=
      congrArg (runSteps 1) (eq_queue_of_pending hpending)
    _ = .next ((s.setPending rest).setStatus code) := runSteps_queue_failed hparse (by simpa using hcode)

theorem runSteps_decrypt (hinv : s.Inv) (hpending : s.pending = decryptItem :: rest) (h20 : 20 ≤ s.plen.toNat)
    (h : s.plen.toNat - 12 ≤ s.params.dcap.val)
    (hks : ksInitOk s.params.ks s.key.toList (s.p.readBytes 0 12) = true)
    (hroom : s.plen.toNat - 12 ≤ ksRoom s.params.ks) :
    runSteps 3 s = .next (afterDes (opened (s.setPending rest))) := by
  have hn := afterParse_n_toList (s := s.setPending rest) h20
  have hdlen := afterParse_dlen_toNat (s := s.setPending rest) h
  have hready : (afterParse (s.setPending rest)).cipherReady := by
    rw [State.cipherReady, hn, hdlen]
    simpa using And.intro hks hroom
  have hparse : exec .parse (s.setPending rest) = .next (afterParse (s.setPending rest)) :=
    exec_parse hinv.plen_le h20 h
  have happly : exec .apply (afterParse (s.setPending rest)) = .next (opened (s.setPending rest)) :=
    exec_apply (by rw [hdlen]; simpa using h) hready
  have hdes : exec .des (opened (s.setPending rest)) = .next (afterDes (opened (s.setPending rest))) :=
    exec_des (by rw [opened_dlen_toNat (s := s.setPending rest) h]; simpa [opened] using h)
  calc runSteps 3 s
    _ = runSteps 3 ((s.setPending rest).queue [.issue 0x06#8, .issue 0x03#8, .issue 0x02#8]) :=
      congrArg (runSteps 3) (eq_queue_of_pending hpending)
    _ = runSteps 2 ((afterParse (s.setPending rest)).queue [.issue 0x03#8, .issue 0x02#8]) :=
      runSteps_queue_issue hparse (afterParse_status _) (List.cons_ne_nil _ _) 2
    _ = runSteps 1 ((opened (s.setPending rest)).queue [.issue 0x02#8]) :=
      runSteps_queue_issue happly (afterApply_status _) (List.cons_ne_nil _ _) 1
    _ = .next (afterDes (opened (s.setPending rest))) := runSteps_queue_last hdes

end Opened

/-- Settles O55: the end state is `opened` with `DES` run on it, which leaves `N`, `D` and `DLEN`. -/
theorem decryptEndState : Obligations.DecryptEndState := by
  rintro s rest _ _ hinv hpending rfl rfl
  refine ⟨fun hshort => ?tooShort, fun h20 hsmall => ?tooLong, fun h20 hfits hks hroom => ?opened⟩
  case tooShort => exact runSteps_parse_failed hpending (execParse_of_short hinv.plen_le hshort) (by decide)
  case tooLong => exact runSteps_parse_failed hpending (execParse_of_lt hinv.plen_le h20 hsmall) (by decide)
  case opened =>
    obtain ⟨hn, hd, hdlen⟩ := afterDes_buffers (opened (s.setPending rest))
    have hlen := opened_dlen_toNat (s := s.setPending rest) hfits
    have hdata : (opened (s.setPending rest)).d.readBytes 0 (s.plen.toNat - 12) =
        desData (opened (s.setPending rest)) := by
      rw [desData, hlen, State.setPending_plen]
    have hpolicy : (opened (s.setPending rest)).params.flagPolicy = s.params.flagPolicy := by simp [opened]
    refine ⟨_, runSteps_decrypt hinv hpending h20 hfits hks hroom, ?_⟩
    rw [hn, hd, hdlen]
    refine ⟨opened_n_toList (s := s.setPending rest) h20, hlen,
      opened_d_readBytes (s := s.setPending rest) hinv.d_wf h20 hfits,
      fun _ => opened_d_read_of_ge (s := s.setPending rest) hinv.d_wf hfits,
      fun c hok => ?record, fun e herr => ?malformed⟩
    case record =>
      rw [hdata, ← hpolicy] at hok
      rw [afterDes_of_ok hok]
      refine ⟨?_, by simp, by simp, by simp, by simp⟩
      conv_lhs => rw [opened_frame]
      apply State.ext_fields <;> simp
    case malformed =>
      rw [hdata, ← hpolicy] at herr
      rw [afterDes_of_error herr]
      conv_lhs => rw [opened_frame]
      apply State.ext_fields <;> simp

/-! ## The pair -/

/-- What was written to the record registers is the staged record. -/
theorem stagedCoord_eq {s : State} {c : Coord} (hlat : s.lat = c.lat) (hlon : s.lon = c.lon) (haf : s.af = c.alt.isSome)
    (halt : s.alt = c.alt.getD 0#32) : stagedCoord s = c := by
  obtain ⟨lat, lon, alt⟩ := c
  rw [stagedCoord, hlat, hlon, haf, halt]
  cases alt <;> rfl

/-- A packet held in a buffer, cut into its nonce and its ciphertext. -/
theorem readBytes_cut {m : Memory} {nonce ct : Bytes} {n : Nat} (hnonce : nonce.length = 12)
    (h : m.readBytes 0 (12 + n) = nonce ++ ct) : m.readBytes 0 12 = nonce ∧ m.readBytes 12 n = ct := by
  have hlen : (nonce ++ ct).length = 12 + n := by rw [← h, Memory.readBytes_length]
  constructor
  · have hslice := slice_readBytes m (off := 0) (i := 0) (Nat.le_add_right 12 n)
    rw [h, ← hnonce, slice_append_left] at hslice
    simpa [hnonce] using hslice.symm
  · have hslice := slice_readBytes m (off := 0) (i := 12) (le_refl (12 + n))
    rw [h, ← hlen, ← hnonce, slice_append_right, hlen, hnonce] at hslice
    simpa using hslice.symm

/-- Settles O56: the sender's end state (O53) holds the nonce and `pt` under the keystream; the receiver (O55) cuts the
packet there and takes the same keystream off, so `DES` finds the sender's serialized record. -/
theorem senderReceiverPair : Obligations.SenderReceiverPair := by
  intro s r t rest rest' hs hr hkey hksEq hsd hsp hrd _ hks hroom hspend hrun hrpend hplen hpacket
  obtain ⟨h9, h13⟩ := serializedLength_mem_range (stagedCoord s)
  rw [serializedLength_stagedCoord] at h9 h13
  obtain ⟨_, hsender⟩ := encryptEndState s rest _ _ hs hspend rfl rfl
  obtain ⟨pt, t', hpt, hrun', _, _, _, hdata, _, hfits, _⟩ := hsender (h13.trans hsd) hks (h13.trans hroom)
  obtain rfl : t = t' := Host.Outcome.next.inj (hrun.symm.trans hrun')
  obtain ⟨htplen, htp, _⟩ := hfits (by omega)
  generalize hneed : (if s.af then 13 else 9) = need at *
  obtain rfl := eq_serializedBytes_of_serialize _ hpt
  have hcopied : r.p.readBytes 0 (12 + need) = t.p.readBytes 0 (12 + need) :=
    Memory.readBytes_congr fun i hi => by rw [zero_add]; exact hpacket i (by omega)
  obtain ⟨hrnonce, hrct⟩ := readBytes_cut (by simp) (hcopied.trans htp)
  have hrlen : r.plen.toNat - 12 = need := by rw [hplen, htplen]; omega
  obtain ⟨_, _, hreceiver⟩ := decryptEndState r rest' _ _ hr hrpend rfl rfl
  rw [hrlen, hrnonce, hrct, ← hkey, ← hksEq] at hreceiver
  obtain ⟨u, hrunu, _, _, hud, _, hok, _⟩ := hreceiver (by omega) (by omega) hks (by omega)
  have hplain : u.d.readBytes 0 need = serializedBytes (stagedCoord s) := by
    rw [hud, hdata, xorBytes_self_inverse]
    rw [serializedBytes_length, serializedLength_stagedCoord, hneed, keystream_length]
  obtain ⟨hu, hlat, hlon, haf, halt⟩ := hok (stagedCoord s) (by rw [hplain, deserialize_serializedBytes])
  refine ⟨u, hrunu, by rw [hu]; simp, stagedCoord_eq hlat hlon haf halt, fun habsent => ?_⟩
  rw [halt, stagedCoord_alt, habsent]
  rfl

end Sys2Proof.Machine

/-! How a command ends (60_exceptions.md R231, R232): by success, which leaves `STATUS = 0`, or by taking one error. -/

namespace Sys2Proof.Machine

/-- The equation on the right is what `raise` answers: taking an error is the only way to a nonzero `STATUS`. -/
theorem exec_status_zero_or_raises {i : Instr} {s t : State} (h : exec i s = .next t) :
    t.status = 0#8 ∨ ∃ e : CmdError, t = s.setStatus e.code := by
  cases i with
  | ser =>
    obtain ⟨_, he⟩ | ⟨_, he⟩ := execSer_cases s <;> cases he.symm.trans h
    · exact .inr ⟨.bufferTooSmall, rfl⟩
    · exact .inl rfl
  | des =>
    obtain ⟨_, he⟩ | ⟨_, ⟨_, he⟩ | ⟨c, _, he⟩⟩ := execDes_cases s <;> cases he.symm.trans h
    · exact .inr ⟨.malformedPlaintext, rfl⟩
    · exact .inl rfl
  | apply =>
    obtain ⟨_, he⟩ | ⟨_, ⟨_, he⟩ | ⟨_, _, he⟩ | ⟨_, _, he⟩⟩ := execApply_cases s <;> cases he.symm.trans h
    · exact .inr ⟨.cipherError, rfl⟩
    · exact .inl rfl
  | nextn =>
    cases (execNextn_eq s).symm.trans h
    exact .inl rfl
  | build =>
    obtain ⟨_, he⟩ | ⟨_, ⟨_, he⟩ | ⟨_, he⟩⟩ := execBuild_cases s <;> cases he.symm.trans h
    · exact .inr ⟨.bufferTooSmall, rfl⟩
    · exact .inl rfl
  | parse =>
    obtain ⟨_, he⟩ | ⟨_, ⟨_, he⟩ | ⟨_, _, he⟩ | ⟨_, _, he⟩⟩ := execParse_cases s <;> cases he.symm.trans h
    · exact .inr ⟨.packetTooShort, rfl⟩
    · exact .inr ⟨.bufferTooSmall, rfl⟩
    · exact .inl rfl

/-- Settles O42: a nonzero `STATUS` leaves only the error, whose code is then the `STATUS` of the state after. -/
theorem failureChangesOnlyStatus : Obligations.FailureChangesOnlyStatus := by
  intro i s t hexec hfailed
  obtain hzero | ⟨e, rfl⟩ := exec_status_zero_or_raises hexec
  · exact absurd hzero hfailed
  · rw [State.setStatus_status]

end Sys2Proof.Machine

/-! Reset (10_state.md R33, 70_reset_and_hazards.md R265): the fields of the state after it, and the six commands on that
state (R267), where both lengths and `STATUS` are 0. -/

namespace Sys2Proof.Machine

/-! ## The state after a reset -/

section AfterReset

variable (u : Unspecified) (s : State)

@[simp] theorem State.afterReset_params : (s.afterReset u).params = s.params := rfl
@[simp] theorem State.afterReset_key : (s.afterReset u).key = s.key := rfl
@[simp] theorem State.afterReset_devid : (s.afterReset u).devid = s.devid := rfl
@[simp] theorem State.afterReset_ctr : (s.afterReset u).ctr = 0#64 := rfl
@[simp] theorem State.afterReset_lat : (s.afterReset u).lat = u.lat := rfl
@[simp] theorem State.afterReset_lon : (s.afterReset u).lon = u.lon := rfl
@[simp] theorem State.afterReset_af : (s.afterReset u).af = u.af := rfl
@[simp] theorem State.afterReset_alt : (s.afterReset u).alt = u.alt := rfl
@[simp] theorem State.afterReset_n : (s.afterReset u).n = u.n := rfl
@[simp] theorem State.afterReset_dlen : (s.afterReset u).dlen = 0#8 := rfl
@[simp] theorem State.afterReset_plen : (s.afterReset u).plen = 0#8 := rfl
@[simp] theorem State.afterReset_status : (s.afterReset u).status = 0#8 := rfl

theorem State.afterReset_d_wf : (s.afterReset u).d.wf = true := Memory.writeBytes_wf (m := []) rfl _ _

theorem State.afterReset_p_wf : (s.afterReset u).p.wf = true := Memory.writeBytes_wf (m := []) rfl _ _

variable {s}

theorem step_reset {rest : List PortItem} (h : s.pending = .act .reset :: rest) :
    step s = .next (((s.setPending rest).afterReset (freeContents s.params s.draws)).setDraws (s.draws + 1)) :=
  step_cons h

end AfterReset

/-- Settles O11: the unspecified places take the free contents of this reset. -/
theorem resetEffect : Obligations.ResetEffect := by
  refine ⟨fun s rest hpending => ⟨freeContents s.params s.draws, _, step_reset hpending, rfl, ?_⟩, rfl, rfl, rfl, rfl,
    fun _ => Vector.getElem_ofFn, fun _ => Vector.getElem_ofFn⟩
  simp

/-! ## Commands where a length is 0 -/

section Empty

variable {s : State}

theorem desData_of_dlen_zero (hdlen : s.dlen = 0#8) : desData s = [] := by
  rw [← List.length_eq_zero_iff, desData_length, hdlen]
  rfl

/-- `APPLY` writes no byte of `D` when `DLEN` is 0. -/
theorem appliedD_of_dlen_zero (hdlen : s.dlen = 0#8) : appliedD s = s.d := by
  rw [appliedD, desData_of_dlen_zero hdlen]
  rfl

/-- No data is never more than the keystream function can serve. -/
theorem exec_apply_of_dlen_zero (hdlen : s.dlen = 0#8) (hks : ksInitOk s.params.ks s.key.toList s.n.toList = true) :
    exec .apply s = .next (s.setStatus 0#8) := by
  have happly := exec_apply (s := s) (by simp [hdlen]) ⟨hks, by simp [hdlen]⟩
  rwa [afterApply, appliedD_of_dlen_zero hdlen] at happly

theorem exec_des_of_dlen_zero (hdlen : s.dlen = 0#8) : exec .des s = .next (s.setStatus 2#8) :=
  execDes_of_error (by simp [hdlen]) (deserialize_of_length_lt_nine (by simp [hdlen]))

theorem exec_parse_of_plen_zero (hplen : s.plen = 0#8) : exec .parse s = .next (s.setStatus 6#8) :=
  execParse_of_short (by simp [hplen]) (by simp [hplen])

end Empty

/-- The nonce of counter 0 ends in eight zero bytes. -/
theorem nonceAt_zero_getElem {devid : Vector Byte 4} {i : Nat} (hi : i < 12) (h4 : 4 ≤ i) :
    (nonceAt devid 0#64)[i] = 0x00#8 := by
  obtain ⟨k, rfl⟩ := Nat.exists_eq_add_of_le h4
  rw [nonceAt_getElem_ctr devid 0#64 (by omega), BitVec.extractLsb'_zero]

/-! ## The fields of a record `SER` wrote -/

section WrittenRecord

variable {s : State}

theorem readBytes_writeBytes_zero {m : Memory} {v : Bytes} {i n : Nat} (hm : m.wf = true) (h : i + n ≤ v.length) :
    (m.writeBytes 0 v).readBytes i n = slice v i (i + n) := by
  have hslice := slice_readBytes (m.writeBytes 0 v) (off := 0) (i := i) h
  rw [Memory.readBytes_writeBytes hm, zero_add, Nat.add_sub_cancel_left] at hslice
  exact hslice.symm

theorem slice_serializedBytes_alt {c : Coord} {alt : Word} (halt : c.alt = some alt) :
    slice (serializedBytes c) 9 13 = le32 alt := by
  obtain ⟨lat, lon, _⟩ := c
  cases halt
  rfl

/-- 30_encoding.md R83, R84 on the state after `SER`, with the fields as strings. -/
theorem afterSer_record (hwf : s.d.wf = true) :
    (afterSer s).d.readBytes 0 4 = le32 s.lat ∧ (afterSer s).d.readBytes 4 4 = le32 s.lon ∧
      (afterSer s).d.read 8 = flagByte s.af ∧ (s.af = true → (afterSer s).d.readBytes 9 4 = le32 s.alt) := by
  have hlen : (serializedBytes (stagedCoord s)).length = recordLength s.af := by
    rw [serializedBytes_length, serializedLength_eq_recordLength, stagedCoord_alt_isSome]
  have h9 := nine_le_recordLength s.af
  rw [afterSer_d]
  refine ⟨readBytes_writeBytes_zero hwf (by omega), readBytes_writeBytes_zero hwf (by omega), ?flag, fun haf => ?alt⟩
  case flag =>
    rw [read_writeBytes_zero_of_lt hwf (by omega), byteAt_serializedBytes_flag, stagedCoord_alt_isSome]
  case alt =>
    have h13 : recordLength s.af = 13 := if_pos haf
    have halt : (stagedCoord s).alt = some s.alt := by rw [stagedCoord_alt, if_pos haf]
    rw [readBytes_writeBytes_zero hwf (by omega), slice_serializedBytes_alt halt]

end WrittenRecord

/-! ## `BUILD` and `SER` on the reset state -/

section AfterReset

variable {u : Unspecified} {s : State}

/-- `STATUS` is 0 already, so success leaves no trace in it. -/
theorem exec_build_afterReset (hcap : 12 ≤ s.params.pcap.val) :
    exec .build (s.afterReset u) = .next (((s.afterReset u).setP
      ((s.afterReset u).p.writeBytes 0 (framedPacket (s.afterReset u)))).setPlen 12#8) :=
  execBuild_of_le (Nat.zero_le _) hcap

theorem exec_ser_afterReset (hcap : recordLength u.af ≤ s.params.dcap.val) :
    exec .ser (s.afterReset u) = .next (((s.afterReset u).setD (afterSer (s.afterReset u)).d).setDlen
      (if u.af then 13#8 else 9#8)) :=
  exec_ser hcap

end AfterReset

/-- Settles O13: both lengths are 0, so `APPLY`, `DES` and `PARSE` find nothing and `BUILD` frames the nonce alone; the new
`D` and `P` are read back through `afterSer` and `framedPacket`. -/
theorem commandsOnTheResetState : Obligations.CommandsOnTheResetState := by
  rintro u s₀ s rfl
  have hdwf := s₀.afterReset_d_wf u
  have hpwf := s₀.afterReset_p_wf u
  have hpacket : (framedPacket (s₀.afterReset u)).length = 12 := framedPacket_length _
  refine ⟨⟨_, exec_nextn _, fun _ => nonceAt_getElem_devid s₀.devid 0#64, fun _ => nonceAt_zero_getElem⟩,
    exec_apply_of_dlen_zero rfl, exec_des_of_dlen_zero rfl, exec_parse_of_plen_zero rfl,
    fun hcap => ⟨_, exec_build_afterReset hcap, fun i hi => ?nonce,
      fun a ha => read_writeBytes_zero_of_ge hpwf (hpacket.trans_le ha)⟩,
    fun hcap => ⟨_, exec_ser_afterReset hcap, ?record⟩⟩
  case nonce =>
    rw [read_writeBytes_zero_of_lt hpwf (hi.trans_eq hpacket.symm), byteAt_framedPacket_nonce hi, State.afterReset_n]
  case record =>
    obtain ⟨hlat, hlon, hflag, halt⟩ := afterSer_record hdwf
    exact ⟨hlat, hlon, hflag, halt, fun _ => afterSer_read_of_ge hdwf⟩

end Sys2Proof.Machine

/-! Command codes (30_encoding.md R93, R94) over strings: a code stands for at most one command, and a string decodes code
by code. -/

namespace Sys2Proof

theorem decodeCode_eq_ok_iff {code : Byte} {i : Instr} : decodeCode code = .ok i ↔ code = encodeCode i := by
  constructor
  · intro h
    by_contra hne
    by_cases hassigned : ∃ j, code = encodeCode j
    · obtain ⟨j, rfl⟩ := hassigned
      rw [Machine.decodeCode_encodeCode] at h
      cases h
      exact hne rfl
    · rw [decodeCode_of_ne_encodeCode (not_exists.mp hassigned)] at h
      cases h
  · rintro rfl
    exact Machine.decodeCode_encodeCode i

theorem decode_cons_eq_ok {b : Byte} {bs rest : Bytes} {i : Instr} (h : decode (b :: bs) = .ok (i, rest)) :
    decodeCode b = .ok i ∧ rest = bs := by
  cases hcode : decodeCode b with
  | ok j =>
    simp only [decode, hcode, Except.ok.injEq, Prod.mk.injEq] at h
    obtain ⟨rfl, rfl⟩ := h
    exact ⟨rfl, rfl⟩
  | error e => simp [decode, hcode] at h

theorem decodeAll_cons_of_ok {code : Byte} {rest : Bytes} {i : Instr} {is : List Instr} (hcode : decodeCode code = .ok i)
    (hrest : decodeAll rest = .ok is) : decodeAll (code :: rest) = .ok (i :: is) := by
  simp [decodeAll, hcode, hrest]

theorem decodeAll_cons_eq_ok {code : Byte} {rest : Bytes} {is : List Instr} (h : decodeAll (code :: rest) = .ok is) :
    ∃ i is', decodeCode code = .ok i ∧ decodeAll rest = .ok is' ∧ is = i :: is' := by
  cases hcode : decodeCode code with
  | error e => simp [decodeAll, hcode] at h
  | ok i =>
    cases hrest : decodeAll rest with
    | error e => simp [decodeAll, hcode, hrest] at h
    | ok is' =>
      rw [decodeAll_cons_of_ok hcode hrest] at h
      cases h
      exact ⟨i, is', rfl, rfl, rfl⟩

theorem decodeAll_flatMap_encode (is : List Instr) : decodeAll (is.flatMap encode) = .ok is := by
  induction is with
  | nil => rfl
  | cons i is ih => exact decodeAll_cons_of_ok (Machine.decodeCode_encodeCode i) ih

theorem eq_flatMap_encode_of_decodeAll {bs : Bytes} {is : List Instr} (h : decodeAll bs = .ok is) :
    bs = is.flatMap encode ∧ is.length = bs.length := by
  induction bs generalizing is with
  | nil =>
    cases h
    exact ⟨rfl, rfl⟩
  | cons code rest ih =>
    obtain ⟨i, is', hcode, hrest, rfl⟩ := decodeAll_cons_eq_ok h
    obtain ⟨hbytes, hlen⟩ := ih hrest
    refine ⟨?_, congrArg (· + 1) hlen⟩
    rw [decodeCode_eq_ok_iff.mp hcode, hbytes]
    rfl

/-- Every byte of a string that decodes is the code of a command. -/
theorem exists_encodeCode_of_decodeAll {bs : Bytes} {is : List Instr} (h : decodeAll bs = .ok is) {code : Byte}
    (hmem : code ∈ bs) : ∃ i, code = encodeCode i := by
  rw [(eq_flatMap_encode_of_decodeAll h).1] at hmem
  obtain ⟨i, _, hi⟩ := List.mem_flatMap.mp hmem
  exact ⟨i, List.mem_singleton.mp hi⟩

/-- Settles O1: `decodeCode` and `encodeCode` are inverse, and `decode` takes one code off the front. -/
theorem decodeEncodeAgree : Obligations.DecodeEncodeAgree := by
  refine ⟨fun i _ rest => ?decodeEncode, fun _ _ => decodeCode_eq_ok_iff, fun b bs rest i h => ?encodeDecode⟩
  case decodeEncode =>
    have hcode := Machine.decodeCode_encodeCode i
    simp [encode, decode, hcode]
  case encodeDecode =>
    obtain ⟨hcode, hrest⟩ := decode_cons_eq_ok h
    exact ⟨congrArg (fun c => [c]) (decodeCode_eq_ok_iff.mp hcode).symm, hrest⟩

/-- Settles O2: both directions by induction on the string; a byte that is no command's code cannot stand in a string that
decodes. -/
theorem commandStringsDecodeUniquely : Obligations.CommandStringsDecodeUniquely := by
  refine ⟨fun is _ => decodeAll_flatMap_encode is, fun _ _ => eq_flatMap_encode_of_decodeAll,
    fun bs code hmem hcode => ?unassigned⟩
  case unassigned =>
    cases hbs : decodeAll bs with
    | error e => exact ⟨e, rfl⟩
    | ok is =>
      obtain ⟨i, rfl⟩ := exists_encodeCode_of_decodeAll hbs hmem
      cases (decodeCode_of_unassigned hcode).symm.trans (Machine.decodeCode_encodeCode i)

theorem decodeTableWord_encodeCode (i : Instr) : decodeTableWord 8 (encodeCode i).toNat = some i := by
  cases i <;> rfl

theorem decodeTableWord_of_unassigned {w : Nat} (hw : w < 256) (h : w = 0 ∨ 7 ≤ w) : decodeTableWord 8 w = none := by
  have hcode : BitVec.ofNat 8 (w % 2 ^ 8) = 0x00#8 ∨ 0x07 ≤ (BitVec.ofNat 8 (w % 2 ^ 8)).toNat := by
    rcases h with rfl | h
    · exact .inl rfl
    · exact .inr (by rw [BitVec.toNat_ofNat]; omega)
  simp only [decodeTableWord, tableBytes, decode, decodeCode_of_unassigned hcode]

/-- Settles O3: the six written-out words are the codes the encoder gives, and the other three are unassigned. -/
theorem writtenOutWordsDecode : Obligations.WrittenOutWordsDecode :=
  ⟨decodeTableWord_encodeCode .ser, decodeTableWord_encodeCode .des, decodeTableWord_encodeCode .apply,
    decodeTableWord_encodeCode .nextn, decodeTableWord_encodeCode .build, decodeTableWord_encodeCode .parse,
    decodeTableWord_of_unassigned (by omega) (by omega), decodeTableWord_of_unassigned (by omega) (by omega),
    decodeTableWord_of_unassigned (by omega) (by omega)⟩

end Sys2Proof

/-! One step by the action it performs (10_state.md R36, 45_pipelines.md R214): the step equations, what a host action that
is no command touches, and what every action leaves. -/

namespace Sys2Proof.Machine

/-! ## The step equations -/

/-- The answer with `f` done to the next state; a stop stays as it is. -/
def mapNext (f : State → State) : Result → Result
  | .next s => .next (f s)
  | .fault r => .fault r
  | .refused r => .refused r

theorem mapNext_eq_next {f : State → State} {r : Result} {t : State} :
    mapNext f r = .next t ↔ ∃ u, r = .next u ∧ t = f u := by
  cases r <;> simp [mapNext, eq_comm]

theorem mapNext_eq_fault {f : State → State} {r : Result} {e : Fault} : mapNext f r = .fault e ↔ r = .fault e := by
  cases r <;> simp [mapNext]

/-- What is left of the first item of the host's list once its first action is taken off. -/
def State.restActions (s : State) : List HostAction :=
  match s.pending with
  | .whileOk (_ :: as) :: _ => as
  | _ => []

/-- `s` with the first item of the host's list taken off. -/
def State.popItem (s : State) : State := s.setPending s.pending.tail

@[simp] theorem State.popItem_pending (s : State) : s.popItem.pending = s.pending.tail := rfl

theorem step_of_nextAction_none {s : State} (h : s.nextAction = none) : step s = .next s.popItem := by
  cases hp : s.pending with
  | nil =>
    have hpop : s.popItem = s :=
      calc s.setPending s.pending.tail
        _ = s.setPending s.pending := by rw [hp, List.tail_nil]
        _ = s := rfl
    rw [step_idle hp, hpop]
  | cons item rest =>
    rw [step_cons hp, State.popItem, hp, List.tail_cons]
    match item, hp with
    | .whileOk [], _ => rfl
    | .act a, hp => simp [State.nextAction, hp] at h
    | .whileOk (a :: as), hp => simp [State.nextAction, hp] at h

theorem pending_of_nextAction {s : State} {a : HostAction} (h : s.nextAction = some a) :
    (s.pending = .act a :: s.pending.tail ∧ s.restActions = []) ∨
      s.pending = .whileOk (a :: s.restActions) :: s.pending.tail := by
  cases hp : s.pending with
  | nil => simp [State.nextAction, hp] at h
  | cons item rest =>
    match item, hp with
    | .whileOk [], hp => simp [State.nextAction, hp] at h
    | .act b, hp =>
      obtain rfl : b = a := by simpa [State.nextAction, hp] using h
      exact .inl ⟨rfl, by simp [State.restActions, hp]⟩
    | .whileOk (b :: as), hp =>
      obtain rfl : b = a := by simpa [State.nextAction, hp] using h
      exact .inr (by simp [State.restActions, hp])

/-- A single action is a sequence of one, which nothing follows. -/
theorem step_of_nextAction {s : State} {a : HostAction} (h : s.nextAction = some a) :
    step s = mapNext (continueWhileOk a s.restActions) (perform a s.popItem) := by
  obtain ⟨hsingle, hrest⟩ | hsequence := pending_of_nextAction h
  · rw [step_cons hsingle, hrest, performItem, State.popItem]
    cases perform a (s.setPending s.pending.tail) <;> simp [mapNext, continueWhileOk_nil]
  · rw [step_cons hsequence, performItem, State.popItem]
    cases perform a (s.setPending s.pending.tail) <;> rfl

/-- All that a step that answers can do. -/
theorem step_eq_next {s t : State} (h : step s = .next t) :
    (s.nextAction = none ∧ t = s.popItem) ∨
    ∃ a u, s.nextAction = some a ∧ perform a s.popItem = .next u ∧ t = continueWhileOk a s.restActions u := by
  cases ha : s.nextAction with
  | none => exact .inl ⟨rfl, Host.Outcome.next.inj (h.symm.trans (step_of_nextAction_none ha))⟩
  | some a =>
    rw [step_of_nextAction ha] at h
    obtain ⟨u, hu, ht⟩ := mapNext_eq_next.mp h
    exact .inr ⟨a, u, rfl, hu, ht⟩

/-- Going on in a sequence writes the host's list only. -/
theorem continueWhileOk_eq_setPending (a : HostAction) (as : List HostAction) (s : State) :
    ∃ l, continueWhileOk a as s = s.setPending l := by
  obtain h | h := continueWhileOk_cases a as s
  · exact ⟨s.pending, h⟩
  · exact ⟨_, h⟩

/-! ## Frames -/

/-- What a host action that is neither a command nor reset leaves: the constants, the counter, `STATUS` and the host's
list. -/
structure State.HostFrame (s t : State) : Prop where
  params : t.params = s.params
  key : t.key = s.key
  devid : t.devid = s.devid
  ctr : t.ctr = s.ctr
  status : t.status = s.status
  pending : t.pending = s.pending

theorem hostReadByte_of_lt {b : Buf} {i : Nat} {s : State} (h : i < capacity s.params b) :
    hostReadByte b i s = .next (s.addReply (.byte ((s.mem b).read i))) := if_pos h

theorem hostReadByte_of_le {b : Buf} {i : Nat} {s : State} (h : capacity s.params b ≤ i) :
    hostReadByte b i s = .fault (.outsideBuffer b) := if_neg (not_lt.mpr h)

theorem hostWriteByte_of_lt {b : Buf} {i : Nat} {s : State} (h : i < capacity s.params b) (v : Byte) :
    hostWriteByte b i v s = .next (s.setMem b ((s.mem b).write i v)) := if_pos h

theorem hostWriteByte_of_le {b : Buf} {i : Nat} {s : State} (h : capacity s.params b ≤ i) (v : Byte) :
    hostWriteByte b i v s = .fault (.outsideBuffer b) := if_neg (not_lt.mpr h)

theorem hostWriteN_of_lt {i : Nat} (h : i < 12) (v : Byte) (s : State) :
    hostWriteN i v s = .next (s.setN (s.n.set i v h)) := dif_pos h

theorem hostWriteN_of_le {i : Nat} (h : 12 ≤ i) (v : Byte) (s : State) : hostWriteN i v s = .fault .outsideNonce :=
  dif_neg (not_lt.mpr h)

section Inversion

variable {b : Buf} {i : Nat} {v : Byte} {s t : State}

theorem hostReadByte_eq_next (h : hostReadByte b i s = .next t) : t = s.addReply (.byte ((s.mem b).read i)) := by
  rcases lt_or_ge i (capacity s.params b) with hi | hi
  · exact Host.Outcome.next.inj (h.symm.trans (hostReadByte_of_lt hi))
  · cases (hostReadByte_of_le hi).symm.trans h

theorem hostWriteByte_eq_next (h : hostWriteByte b i v s = .next t) :
    i < capacity s.params b ∧ t = s.setMem b ((s.mem b).write i v) := by
  rcases lt_or_ge i (capacity s.params b) with hi | hi
  · exact ⟨hi, Host.Outcome.next.inj (h.symm.trans (hostWriteByte_of_lt hi v))⟩
  · cases (hostWriteByte_of_le hi v).symm.trans h

theorem hostWriteN_eq_next (h : hostWriteN i v s = .next t) : ∃ hi : i < 12, t = s.setN (s.n.set i v hi) := by
  rcases lt_or_ge i 12 with hi | hi
  · exact ⟨hi, Host.Outcome.next.inj (h.symm.trans (hostWriteN_of_lt hi v s))⟩
  · cases (hostWriteN_of_le hi v s).symm.trans h

end Inversion

theorem perform_hostFrame {a : HostAction} {s t : State} (h : perform a s = .next t) (hissue : ∀ code, a ≠ .issue code)
    (hreset : a ≠ .reset) : s.HostFrame t := by
  cases a with
  | readReg r | writeLat v | writeLon v | writeAlt v | writeAf v =>
    cases h
    constructor <;> rfl
  | readByte b i =>
    obtain rfl := hostReadByte_eq_next h
    constructor <;> rfl
  | writeByte b i v =>
    obtain ⟨_, rfl⟩ := hostWriteByte_eq_next h
    constructor <;> simp
  | writeN i v =>
    obtain ⟨_, rfl⟩ := hostWriteN_eq_next h
    constructor <;> rfl
  | writeDlen v =>
    obtain ⟨_, he⟩ | ⟨_, _, he⟩ | ⟨_, _, he⟩ := hostWriteLength_cases .d v s
    all_goals
      cases he.symm.trans h
      constructor <;> rfl
  | writePlen v =>
    obtain ⟨_, he⟩ | ⟨_, _, he⟩ | ⟨_, _, he⟩ := hostWriteLength_cases .p v s
    all_goals
      cases he.symm.trans h
      constructor <;> rfl
  | issue code => exact absurd rfl (hissue code)
  | reset => exact absurd rfl hreset

theorem perform_reset (s : State) :
    perform .reset s = .next ((s.afterReset (freeContents s.params s.draws)).setDraws (s.draws + 1)) := rfl

/-- What no action of the host touches. -/
theorem perform_frame {a : HostAction} {s t : State} (h : perform a s = .next t) :
    t.params = s.params ∧ t.key = s.key ∧ t.devid = s.devid ∧ t.pending = s.pending := by
  by_cases hissue : ∃ code, a = .issue code
  · obtain ⟨code, rfl⟩ := hissue
    have hframe := issue_frame h
    exact ⟨hframe.params, hframe.key, hframe.devid, hframe.pending⟩
  · by_cases hreset : a = .reset
    · subst hreset
      cases (perform_reset s).symm.trans h
      exact ⟨rfl, rfl, rfl, rfl⟩
    · have hframe := perform_hostFrame h (not_exists.mp hissue) hreset
      exact ⟨hframe.params, hframe.key, hframe.devid, hframe.pending⟩

/-- Settles O47: an action leaves the constants, and going on in a sequence writes the host's list only. -/
theorem constantsNeverChange : Obligations.ConstantsNeverChange := by
  intro s t hstep
  obtain ⟨_, rfl⟩ | ⟨a, u, _, hperform, rfl⟩ := step_eq_next hstep
  · exact ⟨rfl, rfl, rfl⟩
  · obtain ⟨hparams, hkey, hdevid, _⟩ := perform_frame hperform
    obtain ⟨l, hl⟩ := continueWhileOk_eq_setPending a s.restActions u
    rw [hl]
    exact ⟨hkey, hdevid, hparams⟩

/-- Settles O10: the action is one that `HostFrame` is about. -/
theorem hostCannotWriteProtected : Obligations.HostCannotWriteProtected := by
  intro s t a ha hissue hreset hstep
  rw [step_of_nextAction ha] at hstep
  obtain ⟨u, hperform, rfl⟩ := mapNext_eq_next.mp hstep
  have hframe := perform_hostFrame hperform hissue hreset
  obtain ⟨l, hl⟩ := continueWhileOk_eq_setPending a s.restActions u
  rw [hl]
  exact ⟨hframe.ctr, hframe.key, hframe.devid, hframe.status⟩

/-! ## The counter -/

theorem exec_ctr {i : Instr} {s t : State} (h : exec i s = .next t) (hi : i ≠ .nextn) : t.ctr = s.ctr := by
  cases i with
  | ser => obtain ⟨_, he⟩ | ⟨_, he⟩ := execSer_cases s <;> cases he.symm.trans h <;> simp
  | des => obtain ⟨_, he⟩ | ⟨_, ⟨_, he⟩ | ⟨c, _, he⟩⟩ := execDes_cases s <;> cases he.symm.trans h <;> simp
  | apply =>
    obtain ⟨_, he⟩ | ⟨_, ⟨_, he⟩ | ⟨_, _, he⟩ | ⟨_, _, he⟩⟩ := execApply_cases s <;> cases he.symm.trans h <;> simp
  | nextn => exact absurd rfl hi
  | build => obtain ⟨_, he⟩ | ⟨_, ⟨_, he⟩ | ⟨_, he⟩⟩ := execBuild_cases s <;> cases he.symm.trans h <;> simp
  | parse =>
    obtain ⟨_, he⟩ | ⟨_, ⟨_, he⟩ | ⟨_, _, he⟩ | ⟨_, _, he⟩⟩ := execParse_cases s <;> cases he.symm.trans h <;> simp

theorem issue_ctr {code : Byte} {s t : State} (h : issue code s = .next t) (hcode : code ≠ 0x04#8) : t.ctr = s.ctr := by
  cases hdec : decodeCode code with
  | ok i =>
    refine exec_ctr ((issue_of_decode hdec s).symm.trans h) ?_
    rintro rfl
    exact hcode (decodeCode_eq_ok_iff.mp hdec)
  | error e =>
    cases (issue_of_decode_error hdec s).symm.trans h
    rfl

/-- R22, R23 for one action. -/
theorem perform_ctr {a : HostAction} {s t : State} (h : perform a s = .next t) :
    (a = .issue 0x04#8 ∧ t.ctr = s.ctr + 1#64) ∨ (a = .reset ∧ t.ctr = 0#64) ∨
      (a ≠ .issue 0x04#8 ∧ a ≠ .reset ∧ t.ctr = s.ctr) := by
  by_cases hnextn : a = .issue 0x04#8
  · subst hnextn
    cases (exec_nextn s).symm.trans h
    exact .inl ⟨rfl, rfl⟩
  by_cases hreset : a = .reset
  · subst hreset
    cases (perform_reset s).symm.trans h
    exact .inr (.inl ⟨rfl, rfl⟩)
  refine .inr (.inr ⟨hnextn, hreset, ?_⟩)
  by_cases hissue : ∃ code, a = .issue code
  · obtain ⟨code, rfl⟩ := hissue
    exact issue_ctr h fun hcode => hnextn (congrArg _ hcode)
  · exact (perform_hostFrame h (not_exists.mp hissue) hreset).ctr

/-- Settles O35: the three cases are those of the action performed. -/
theorem onlyNextnAndResetMoveCtr : Obligations.OnlyNextnAndResetMoveCtr := by
  intro s t hstep
  obtain ⟨hnone, rfl⟩ | ⟨a, u, ha, hperform, rfl⟩ := step_eq_next hstep
  · rw [hnone]
    exact .inr (.inr ⟨nofun, nofun, rfl⟩)
  · obtain ⟨l, hl⟩ := continueWhileOk_eq_setPending a s.restActions u
    rw [hl, ha, State.setPending_ctr]
    simp only [Option.some_inj, ne_eq]
    exact perform_ctr (s := s.popItem) hperform

/-! ## Single actions -/

theorem step_act {s : State} {a : HostAction} {rest : List PortItem} (h : s.pending = .act a :: rest) :
    step s = perform a (s.setPending rest) := step_cons h

/-- Settles O4: inside a sequence the condition of `continueWhileOk` on a command is that of the statement. -/
theorem stepRunsTheDecodedCommand : Obligations.StepRunsTheDecodedCommand := by
  refine ⟨fun s code i rest hpending hcode => ?single, fun s t code i as rest hpending hcode hexec => ?inSequence⟩
  case single => exact (step_act hpending).trans (issue_of_decode hcode _)
  case inSequence =>
    have hissue : perform (.issue code) (s.setPending rest) = .next t := (issue_of_decode hcode _).trans hexec
    rw [step_cons hpending, performItem, hissue]
    simp only [Host.Outcome.next.injEq]
    by_cases hok : t.status = 0#8
    · by_cases has : as = []
      · rw [has, continueWhileOk_nil, if_neg (fun h => h.2 rfl)]
      · rw [continueWhileOk_of_ok (fun _ => hok) has, if_pos ⟨hok, has⟩, State.queue]
    · rw [continueWhileOk_issue_of_failed hok, if_neg (fun h => hok h.1)]

/-- Settles O5: the placed code is taken off again, which leaves the state it was placed in. -/
theorem placedCommandRunsNext : Obligations.PlacedCommandRunsNext := by
  refine ⟨fun s w i hw => ?placed, fun s => step_idle⟩
  case placed =>
    have hcode : decodeCode (BitVec.ofNat 8 (w % 2 ^ 8)) = .ok i := by
      cases hdec : decodeCode (BitVec.ofNat 8 (w % 2 ^ 8)) with
      | ok j =>
        simp only [decodeTableWord, tableBytes, decode, hdec, Option.some_inj] at hw
        rw [hw]
      | error e => simp only [decodeTableWord, tableBytes, decode, hdec, reduceCtorEq] at hw
    have hpending : (s.withFetchWord 8 w).pending = .act (.issue (BitVec.ofNat 8 (w % 2 ^ 8))) :: s.pending := rfl
    calc step (s.withFetchWord 8 w)
      _ = issue (BitVec.ofNat 8 (w % 2 ^ 8)) s := step_act hpending
      _ = exec i s := issue_of_decode hcode s

/-- Settles O8: a read of a register always answers; a read of a byte answers below the capacity. -/
theorem hostReadsChangeNothing : Obligations.HostReadsChangeNothing := by
  refine fun s rest => ⟨fun r hpending => ?register, fun i hpending => ⟨fun hi => ?insideD, fun hi => ?outsideD⟩,
    fun i hpending => ⟨fun hi => ?insideP, fun hi => ?outsideP⟩⟩
  case register => cases r <;> exact step_act hpending
  case insideD => exact (step_act hpending).trans (hostReadByte_of_lt (b := .d) hi)
  case outsideD => exact (step_act hpending).trans (hostReadByte_of_le (b := .d) hi)
  case insideP => exact (step_act hpending).trans (hostReadByte_of_lt (b := .p) hi)
  case outsideP => exact (step_act hpending).trans (hostReadByte_of_le (b := .p) hi)

theorem hostWriteLength_d_of_le {v : Nat} {s : State} (h : v ≤ s.params.dcap.val) :
    hostWriteLength .d v s = .next (s.setDlen (BitVec.ofNat 8 v)) := if_pos h

theorem hostWriteLength_p_of_le {v : Nat} {s : State} (h : v ≤ s.params.pcap.val) :
    hostWriteLength .p v s = .next (s.setPlen (BitVec.ofNat 8 v)) := if_pos h

theorem hostWriteLength_of_lt {b : Buf} {v : Nat} {s : State} (h : capacity s.params b < v) :
    hostWriteLength b v s = .next s := if_neg (not_le.mpr h)

/-- Settles O9: each write answers its field update, and a byte written to a buffer or to `N` is read back. -/
theorem hostWritesTakeTheirValue : Obligations.HostWritesTakeTheirValue := by
  refine fun s rest => ⟨fun v => step_act, fun v => step_act, fun v => step_act, fun v => step_act,
    fun v hpending => ⟨fun hv => ?dlen, fun hv => ?dlenRefused⟩,
    fun v hpending => ⟨fun hv => ?plen, fun hv => ?plenRefused⟩,
    fun i v hpending hwf hi => ?byteD, fun i v hpending hwf hi => ?byteP, fun i v hpending hi => ?byteN⟩
  case dlen =>
    exact ⟨_, toNat_ofNat_of_le_capacity (b := .d) hv, (step_act hpending).trans (hostWriteLength_d_of_le hv)⟩
  case dlenRefused => exact (step_act hpending).trans (hostWriteLength_of_lt (b := .d) hv)
  case plen =>
    exact ⟨_, toNat_ofNat_of_le_capacity (b := .p) hv, (step_act hpending).trans (hostWriteLength_p_of_le hv)⟩
  case plenRefused => exact (step_act hpending).trans (hostWriteLength_of_lt (b := .p) hv)
  case byteD =>
    exact ⟨_, (step_act hpending).trans (hostWriteByte_of_lt (b := .d) (s := s.setPending rest) hi v), Memory.write_wf hwf i v,
      Memory.read_write hwf i v⟩
  case byteP =>
    exact ⟨_, (step_act hpending).trans (hostWriteByte_of_lt (b := .p) (s := s.setPending rest) hi v), Memory.write_wf hwf i v,
      Memory.read_write hwf i v⟩
  case byteN =>
    refine ⟨_, (step_act hpending).trans (perform_writeN hi v _), fun k hk => ?_⟩
    rw [Vector.getElem_set, State.setPending_n]
    exact if_congr eq_comm rfl rfl

end Sys2Proof.Machine

/-! The commands in closed form: one equation each, for statements that compare a command on two states, and what an
answer of `APPLY` and of `PARSE` says of the state it was run on. -/

namespace Sys2Proof.Machine

section Closed

variable (s : State)

theorem exec_ser_eq :
    exec .ser s = .next (if recordLength s.af ≤ s.params.dcap.val then afterSer s else s.setStatus 1#8) := by
  rcases le_or_gt (recordLength s.af) s.params.dcap.val with hfits | hsmall
  · rw [if_pos hfits, exec_ser hfits]
  · rw [if_neg (not_le.mpr hsmall)]
    exact execSer_of_lt hsmall

theorem exec_des_eq :
    exec .des s = if s.dlen.toNat ≤ s.params.dcap.val then .next (afterDes s) else .fault (.outsideBuffer .d) := by
  rcases le_or_gt s.dlen.toNat s.params.dcap.val with hcap | hlong
  · rw [if_pos hcap, exec_des hcap]
  · rw [if_neg (not_le.mpr hlong)]
    exact withRead_of_lt ((Nat.zero_add _).symm ▸ hlong) _

theorem exec_build_eq :
    exec .build s = if s.dlen.toNat ≤ s.params.dcap.val then .next (afterBuild s) else .fault (.outsideBuffer .d) := by
  rcases le_or_gt s.dlen.toNat s.params.dcap.val with hcap | hlong
  · rw [if_pos hcap, exec_build hcap]
  · rw [if_neg (not_le.mpr hlong)]
    exact withRead_of_lt ((Nat.zero_add _).symm ▸ hlong) _

variable {s} in
/-- R143 and log 12: the counter does not wrap. -/
theorem execApply_of_exhausted (hcap : s.dlen.toNat ≤ s.params.dcap.val)
    (hks : ksInitOk s.params.ks s.key.toList s.n.toList = true) (hroom : ksRoom s.params.ks < s.dlen.toNat) :
    execApply s = .refused .keystreamExhausted := by
  obtain ⟨hlt, _⟩ | ⟨_, ⟨hrefused, _⟩ | ⟨_, _, he⟩ | ⟨_, hle, _⟩⟩ := execApply_cases s
  · exact absurd hcap (not_le.mpr hlt)
  · cases hks.symm.trans hrefused
  · exact he
  · exact absurd hle (not_le.mpr hroom)

/-- R166 with its three endings: done, refused by `KSInitOK`, or past the block counter (log 12). -/
theorem exec_apply_eq :
    exec .apply s =
      if s.dlen.toNat ≤ s.params.dcap.val then
        if ksInitOk s.params.ks s.key.toList s.n.toList = true then
          if s.dlen.toNat ≤ ksRoom s.params.ks then .next (afterApply s) else .refused .keystreamExhausted
        else .next (s.setStatus 5#8)
      else .fault (.outsideBuffer .d) := by
  rcases le_or_gt s.dlen.toNat s.params.dcap.val with hcap | hlong
  · rw [if_pos hcap]
    cases hks : ksInitOk s.params.ks s.key.toList s.n.toList with
    | false =>
      rw [if_neg Bool.false_ne_true]
      exact execApply_of_refused hcap hks
    | true =>
      rw [if_pos rfl]
      rcases le_or_gt s.dlen.toNat (ksRoom s.params.ks) with hroom | hexhausted
      · rw [if_pos hroom, exec_apply hcap ⟨hks, hroom⟩]
      · rw [if_neg (not_le.mpr hexhausted)]
        exact execApply_of_exhausted hcap hks hexhausted
  · rw [if_neg (not_le.mpr hlong)]
    exact withRead_of_lt ((Nat.zero_add _).symm ▸ hlong) _

/-- R196 with its two checks in order. -/
theorem exec_parse_eq :
    exec .parse s =
      if s.plen.toNat ≤ s.params.pcap.val then
        .next (if s.plen.toNat < 20 then s.setStatus 6#8
          else if s.params.dcap.val < s.plen.toNat - 12 then s.setStatus 1#8 else afterParse s)
      else .fault (.outsideBuffer .p) := by
  rcases le_or_gt s.plen.toNat s.params.pcap.val with hcap | hlong
  · rw [if_pos hcap]
    split
    next hshort => exact execParse_of_short hcap hshort
    next h20 =>
      split
      next hsmall => exact execParse_of_lt hcap (not_lt.mp h20) hsmall
      next hfits => exact exec_parse hcap (not_lt.mp h20) (not_lt.mp hfits)
  · rw [if_neg (not_le.mpr hlong)]
    exact withRead_of_lt ((Nat.zero_add _).symm ▸ hlong) _

variable {s} {t : State}

theorem exec_des_eq_next (h : exec .des s = .next t) : s.dlen.toNat ≤ s.params.dcap.val ∧ t = afterDes s := by
  rw [exec_des_eq] at h
  split at h
  next hcap => exact ⟨hcap, (Host.Outcome.next.inj h).symm⟩
  next => cases h

theorem exec_build_eq_next (h : exec .build s = .next t) : s.dlen.toNat ≤ s.params.dcap.val ∧ t = afterBuild s := by
  rw [exec_build_eq] at h
  split at h
  next hcap => exact ⟨hcap, (Host.Outcome.next.inj h).symm⟩
  next => cases h

theorem exec_apply_eq_next (h : exec .apply s = .next t) :
    s.dlen.toNat ≤ s.params.dcap.val ∧
      ((ksInitOk s.params.ks s.key.toList s.n.toList = false ∧ t = s.setStatus 5#8) ∨
        (s.cipherReady ∧ t = afterApply s)) := by
  obtain ⟨_, he⟩ | ⟨hcap, ⟨hks, he⟩ | ⟨_, _, he⟩ | ⟨hks, hroom, _⟩⟩ := execApply_cases s
  · cases he.symm.trans h
  · cases he.symm.trans h
    exact ⟨hcap, .inl ⟨hks, rfl⟩⟩
  · cases he.symm.trans h
  · exact ⟨hcap, .inr ⟨⟨hks, hroom⟩, Host.Outcome.next.inj (h.symm.trans (exec_apply hcap ⟨hks, hroom⟩))⟩⟩

theorem exec_parse_eq_next (h : exec .parse s = .next t) :
    s.plen.toNat ≤ s.params.pcap.val ∧
      ((s.plen.toNat < 20 ∧ t = s.setStatus 6#8) ∨
        (20 ≤ s.plen.toNat ∧ s.params.dcap.val < s.plen.toNat - 12 ∧ t = s.setStatus 1#8) ∨
        (20 ≤ s.plen.toNat ∧ s.plen.toNat - 12 ≤ s.params.dcap.val ∧ t = afterParse s)) := by
  obtain ⟨_, he⟩ | ⟨hcap, ⟨hshort, he⟩ | ⟨h20, hsmall, he⟩ | ⟨h20, hfits, _⟩⟩ := execParse_cases s
  · cases he.symm.trans h
  · cases he.symm.trans h
    exact ⟨hcap, .inl ⟨hshort, rfl⟩⟩
  · cases he.symm.trans h
    exact ⟨hcap, .inr (.inl ⟨h20, hsmall, rfl⟩)⟩
  · exact ⟨hcap, .inr (.inr ⟨h20, hfits, Host.Outcome.next.inj (h.symm.trans (exec_parse hcap h20 hfits))⟩)⟩

end Closed

end Sys2Proof.Machine

/-! The invariant (10_state.md R31): what keeps it, and runs of existing actions from a state that holds it (20_memory.md
R57, 45_pipelines.md R214). -/

namespace Sys2Proof.Machine

/-! ## What keeps the invariant -/

section Keeps

variable {s t : State}

/-- The invariant is about the parameters, the buffers with their lengths, and `STATUS`. -/
theorem State.Inv.congr (hs : s.Inv) (hparams : t.params = s.params) (hd : t.d = s.d) (hdlen : t.dlen = s.dlen)
    (hp : t.p = s.p) (hplen : t.plen = s.plen) (hstatus : t.status = s.status) : t.Inv := by
  obtain ⟨hdlen_le, hplen_le, hd_wf, hp_wf, hd_within, hp_within, hstatus_le⟩ := hs
  constructor <;> simpa only [hparams, hd, hdlen, hp, hplen, hstatus]

theorem State.Inv.setStatus (hs : s.Inv) {v : Byte} (hv : v.toNat ≤ 7) : (s.setStatus v).Inv :=
  ⟨hs.dlen_le, hs.plen_le, hs.d_wf, hs.p_wf, hs.d_within, hs.p_within, hv⟩

theorem State.Inv.setDlen (hs : s.Inv) {n : Nat} (hn : n ≤ s.params.dcap.val) : (s.setDlen (BitVec.ofNat 8 n)).Inv :=
  ⟨(toNat_ofNat_of_le_capacity (b := .d) hn).trans_le hn, hs.plen_le, hs.d_wf, hs.p_wf, hs.d_within, hs.p_within,
    hs.status_le⟩

theorem State.Inv.setPlen (hs : s.Inv) {n : Nat} (hn : n ≤ s.params.pcap.val) : (s.setPlen (BitVec.ofNat 8 n)).Inv :=
  ⟨hs.dlen_le, (toNat_ofNat_of_le_capacity (b := .p) hn).trans_le hn, hs.d_wf, hs.p_wf, hs.d_within, hs.p_within,
    hs.status_le⟩

theorem State.Inv.setMem (hs : s.Inv) {b : Buf} {m : Memory} (hwf : m.wf = true)
    (hwithin : m.within (capacity s.params b) = true) : (s.setMem b m).Inv := by
  cases b with
  | d => exact ⟨hs.dlen_le, hs.plen_le, hwf, hs.p_wf, hwithin, hs.p_within, hs.status_le⟩
  | p => exact ⟨hs.dlen_le, hs.plen_le, hs.d_wf, hwf, hs.d_within, hwithin, hs.status_le⟩

theorem State.Inv.mem_wf (hs : s.Inv) (b : Buf) : (s.mem b).wf = true := by
  cases b with
  | d => exact hs.d_wf
  | p => exact hs.p_wf

theorem State.Inv.mem_within (hs : s.Inv) (b : Buf) : (s.mem b).within (capacity s.params b) = true := by
  cases b with
  | d => exact hs.d_within
  | p => exact hs.p_within

theorem State.Inv.write (hs : s.Inv) {b : Buf} {i : Nat} (hi : i < capacity s.params b) (v : Byte) :
    (s.setMem b ((s.mem b).write i v)).Inv :=
  hs.setMem (Memory.write_wf (hs.mem_wf b) i v) (Memory.write_within (hs.mem_within b) hi v)

theorem State.Inv.writeBytes (hs : s.Inv) (b : Buf) {v : Bytes} (hv : v.length ≤ capacity s.params b) :
    (s.setMem b ((s.mem b).writeBytes 0 v)).Inv :=
  hs.setMem (Memory.writeBytes_wf (hs.mem_wf b) 0 v)
    (Memory.writeBytes_within (hs.mem_within b) ((Nat.zero_add _).trans_le hv))

/-! ## Every action -/

theorem serializedBytes_stagedCoord_length (s : State) :
    (serializedBytes (stagedCoord s)).length = recordLength s.af := by
  rw [serializedBytes_length, serializedLength_eq_recordLength, stagedCoord_alt_isSome]

theorem State.Inv.afterSer (hs : s.Inv) (h : recordLength s.af ≤ s.params.dcap.val) : (afterSer s).Inv := by
  have hdlen : (if s.af then 13#8 else 9#8) = BitVec.ofNat 8 (recordLength s.af) := by
    cases s.af <;> rfl
  rw [Machine.afterSer, hdlen]
  exact ((hs.writeBytes .d ((serializedBytes_stagedCoord_length s).trans_le h)).setDlen h).setStatus (Nat.zero_le 7)

theorem State.Inv.afterApply (hs : s.Inv) : (afterApply s).Inv :=
  (hs.writeBytes .d (by rw [xorBytes_keystream_length, desData_length]; exact hs.dlen_le)).setStatus (Nat.zero_le 7)

theorem State.Inv.afterDes (hs : s.Inv) : (afterDes s).Inv := by
  cases hd : deserialize s.params.flagPolicy (desData s) with
  | ok c =>
    rw [afterDes_of_ok hd]
    exact (hs.congr (t := putCoord c s) rfl rfl rfl rfl rfl rfl).setStatus (Nat.zero_le 7)
  | error e =>
    rw [afterDes_of_error hd]
    exact hs.setStatus (by decide)

theorem State.Inv.afterBuild (hs : s.Inv) : (afterBuild s).Inv := by
  rcases le_or_gt (12 + s.dlen.toNat) s.params.pcap.val with hfits | hsmall
  · rw [afterBuild_of_le hfits]
    exact ((hs.writeBytes .p ((framedPacket_length s).trans_le hfits)).setPlen hfits).setStatus (Nat.zero_le 7)
  · rw [afterBuild_of_lt hsmall]
    exact hs.setStatus (by decide)

theorem State.Inv.afterParse (hs : s.Inv) (h : s.plen.toNat - 12 ≤ s.params.dcap.val) : (afterParse s).Inv := by
  have hdata := hs.writeBytes .d ((heldCiphertext_length s).trans_le h)
  have hnonce := hdata.congr (t := ((s.setD (s.d.writeBytes 0 (heldCiphertext s))).setN
    (nonceOfBytes (slice (heldPacket s) 0 12)))) rfl rfl rfl rfl rfl rfl
  exact (hnonce.setDlen h).setStatus (Nat.zero_le 7)

theorem State.Inv.afterReset (u : Unspecified) (s : State) : (s.afterReset u).Inv where
  dlen_le := Nat.zero_le _
  plen_le := Nat.zero_le _
  d_wf := s.afterReset_d_wf u
  p_wf := s.afterReset_p_wf u
  d_within := Memory.writeBytes_within (m := []) rfl (by rw [Nat.zero_add]; exact List.length_take_le _ _)
  p_within := Memory.writeBytes_within (m := []) rfl (by rw [Nat.zero_add]; exact List.length_take_le _ _)
  status_le := Nat.zero_le _

/-- Settles O12: the contents a reset leaves are cut to the capacities. -/
theorem resetHoldsTheInvariant : Obligations.ResetHoldsTheInvariant :=
  ⟨⟨Nat.zero_le _, Nat.zero_le _, rfl, rfl, rfl, rfl, Nat.zero_le _⟩, fun u s => State.Inv.afterReset u s⟩

end Keeps

section Sound

variable {s t : State}

theorem exec_inv {i : Instr} (hs : s.Inv) (h : exec i s = .next t) : t.Inv := by
  cases i with
  | ser =>
    cases (exec_ser_eq s).symm.trans h
    split
    next hfits => exact hs.afterSer hfits
    next => exact hs.setStatus (by decide)
  | des =>
    rw [exec_des hs.dlen_le] at h
    cases h
    exact hs.afterDes
  | apply =>
    obtain ⟨_, ⟨_, rfl⟩ | ⟨_, rfl⟩⟩ := exec_apply_eq_next h
    · exact hs.setStatus (by decide)
    · exact hs.afterApply
  | nextn =>
    cases (exec_nextn s).symm.trans h
    exact (hs.congr (t := (s.setN (nonceAt s.devid s.ctr)).setCtr (s.ctr + 1#64)) rfl rfl rfl rfl rfl rfl).setStatus
      (Nat.zero_le 7)
  | build =>
    rw [exec_build hs.dlen_le] at h
    cases h
    exact hs.afterBuild
  | parse =>
    obtain ⟨_, ⟨_, rfl⟩ | ⟨_, _, rfl⟩ | ⟨_, hfits, rfl⟩⟩ := exec_parse_eq_next h
    · exact hs.setStatus (by decide)
    · exact hs.setStatus (by decide)
    · exact hs.afterParse hfits

theorem perform_inv {a : HostAction} (hs : s.Inv) (h : perform a s = .next t) : t.Inv := by
  cases a with
  | readReg r | writeLat v | writeLon v | writeAlt v | writeAf v =>
    cases h
    exact hs.congr rfl rfl rfl rfl rfl rfl
  | readByte b i =>
    obtain rfl := hostReadByte_eq_next h
    exact hs.congr rfl rfl rfl rfl rfl rfl
  | writeByte b i v =>
    obtain ⟨hi, rfl⟩ := hostWriteByte_eq_next h
    exact hs.write hi v
  | writeN i v =>
    obtain ⟨_, rfl⟩ := hostWriteN_eq_next h
    exact hs.congr rfl rfl rfl rfl rfl rfl
  | writeDlen v =>
    obtain ⟨_, he⟩ | ⟨hv, _, he⟩ | ⟨_, hb, _⟩ := hostWriteLength_cases .d v s
    · cases he.symm.trans h
      exact hs
    · cases he.symm.trans h
      exact hs.setDlen hv
    · cases hb
  | writePlen v =>
    obtain ⟨_, he⟩ | ⟨_, hb, _⟩ | ⟨hv, _, he⟩ := hostWriteLength_cases .p v s
    · cases he.symm.trans h
      exact hs
    · cases hb
    · cases he.symm.trans h
      exact hs.setPlen hv
  | issue code =>
    cases hdec : decodeCode code with
    | ok i => exact exec_inv hs ((issue_of_decode hdec s).symm.trans h)
    | error e =>
      cases (issue_of_decode_error hdec s).symm.trans h
      exact hs.setStatus (le_refl 7)
  | reset =>
    cases (perform_reset s).symm.trans h
    exact (State.Inv.afterReset _ s).congr rfl rfl rfl rfl rfl rfl

theorem State.Inv.setPending (hs : s.Inv) (l : List PortItem) : (s.setPending l).Inv :=
  hs.congr rfl rfl rfl rfl rfl rfl

theorem step_inv (hs : s.Inv) (h : step s = .next t) : t.Inv := by
  obtain ⟨_, rfl⟩ | ⟨a, u, _, hperform, rfl⟩ := step_eq_next h
  · exact hs.setPending _
  · obtain ⟨l, hl⟩ := continueWhileOk_eq_setPending a s.restActions u
    rw [hl]
    exact (perform_inv (hs.setPending _) hperform).setPending l

/-- Settles O50: the host's list is no part of the invariant, so a step keeps it as the action performed does. -/
theorem everyStepKeepsTheInvariant : Obligations.EveryStepKeepsTheInvariant := fun _ _ => step_inv

end Sound

/-! ## Runs -/

section Runs

variable {s t : State}

/-- 20_memory.md R57: "it cannot happen". -/
theorem exec_ne_fault (hs : s.Inv) (i : Instr) (f : Fault) : exec i s ≠ .fault f := by
  cases i with
  | ser => rw [exec_ser_eq]; nofun
  | des => rw [exec_des hs.dlen_le]; nofun
  | apply =>
    obtain ⟨hlong, _⟩ | ⟨_, ⟨_, he⟩ | ⟨_, _, he⟩ | ⟨_, _, he⟩⟩ := execApply_cases s
    · exact absurd hs.dlen_le (not_le.mpr hlong)
    all_goals exact fun hf => nomatch he.symm.trans hf
  | nextn => rw [exec_nextn]; nofun
  | build => rw [exec_build hs.dlen_le]; nofun
  | parse =>
    obtain ⟨hlong, _⟩ | ⟨_, ⟨_, he⟩ | ⟨_, _, he⟩ | ⟨_, _, he⟩⟩ := execParse_cases s
    · exact absurd hs.plen_le (not_le.mpr hlong)
    all_goals exact fun hf => nomatch he.symm.trans hf

/-- An action that exists answers, but for a command under a keystream function that cannot serve it. -/
theorem perform_completes_of_ne_issue {a : HostAction} (ha : a.wellFormed s.params = true)
    (hissue : ∀ code, a ≠ .issue code) : ∃ t, perform a s = .next t := by
  cases a with
  | readReg r | writeLat v | writeLon v | writeAlt v | writeAf v | reset => exact ⟨_, rfl⟩
  | readByte b i => exact ⟨_, hostReadByte_of_lt (of_decide_eq_true ha)⟩
  | writeByte b i v => exact ⟨_, hostWriteByte_of_lt (of_decide_eq_true ha) v⟩
  | writeN i v => exact ⟨_, hostWriteN_of_lt (of_decide_eq_true ha) v s⟩
  | writeDlen v =>
    obtain ⟨_, he⟩ | ⟨_, _, he⟩ | ⟨_, _, he⟩ := hostWriteLength_cases .d v s
    all_goals exact ⟨_, he⟩
  | writePlen v =>
    obtain ⟨_, he⟩ | ⟨_, _, he⟩ | ⟨_, _, he⟩ := hostWriteLength_cases .p v s
    all_goals exact ⟨_, he⟩
  | issue code => exact absurd rfl (hissue code)

theorem perform_ne_fault {a : HostAction} (hs : s.Inv) (ha : a.wellFormed s.params = true) (f : Fault) :
    perform a s ≠ .fault f := by
  intro hf
  by_cases hissue : ∃ code, a = .issue code
  · obtain ⟨code, rfl⟩ := hissue
    cases hdec : decodeCode code with
    | ok i => exact exec_ne_fault hs i f ((issue_of_decode hdec s).symm.trans hf)
    | error e => cases (issue_of_decode_error hdec s).symm.trans hf
  · obtain ⟨t, ht⟩ := perform_completes_of_ne_issue ha (not_exists.mp hissue)
    cases ht.symm.trans hf

/-- Under the default keystream function every command has an answer. -/
theorem exec_completes (hs : s.Inv) (hks : s.params.ks = .chacha20) (i : Instr) : ∃ t, exec i s = .next t := by
  cases i with
  | ser => exact ⟨_, exec_ser_eq s⟩
  | des => exact ⟨_, exec_des hs.dlen_le⟩
  | apply => exact ⟨_, exec_apply hs.dlen_le (cipherReady_of_chacha20 hks)⟩
  | nextn => exact ⟨_, exec_nextn s⟩
  | build => exact ⟨_, exec_build hs.dlen_le⟩
  | parse => exact ⟨_, (exec_parse_eq s).trans (if_pos hs.plen_le)⟩

/-- Settles O49: the command answers, and its frame keeps the host's list. -/
theorem everyCommandCompletes : Obligations.EveryCommandCompletes := by
  intro i s hs hks
  obtain ⟨t, ht⟩ := exec_completes hs hks i
  exact ⟨t, ht, (exec_frame ht).pending⟩

theorem perform_completes {a : HostAction} (hs : s.Inv) (hks : s.params.ks = .chacha20)
    (ha : a.wellFormed s.params = true) : ∃ t, perform a s = .next t := by
  by_cases hissue : ∃ code, a = .issue code
  · obtain ⟨code, rfl⟩ := hissue
    cases hdec : decodeCode code with
    | ok i =>
      obtain ⟨t, ht⟩ := exec_completes hs hks i
      exact ⟨t, (issue_of_decode hdec s).trans ht⟩
    | error e => exact ⟨_, issue_of_decode_error hdec s⟩
  · exact perform_completes_of_ne_issue ha (not_exists.mp hissue)

/-! The host's list along a run. -/

/-- A step takes off the first item, or the first action of it when it is a sequence. -/
theorem step_pending (h : step s = .next t) :
    t.pending = s.pending.tail ∨
      ∃ a, s.pending = .whileOk (a :: s.restActions) :: s.pending.tail ∧
        t.pending = .whileOk s.restActions :: s.pending.tail := by
  obtain ⟨_, rfl⟩ | ⟨a, u, ha, hperform, rfl⟩ := step_eq_next h
  · exact .inl rfl
  obtain ⟨_, _, _, hu⟩ := perform_frame hperform
  rw [State.popItem_pending] at hu
  obtain ⟨_, hrest⟩ | hsequence := pending_of_nextAction ha
  · rw [hrest, continueWhileOk_nil]
    exact .inl hu
  · obtain hdone | hmore := continueWhileOk_cases a s.restActions u
    · rw [hdone]
      exact .inl hu
    · refine .inr ⟨a, hsequence, ?_⟩
      rw [hmore, State.setPending_pending, hu]

theorem wellFormed_of_mem_pending (h : s.hostWellFormed = true) {item : PortItem} (hmem : item ∈ s.pending) :
    item.wellFormed s.params = true := List.all_eq_true.mp h item hmem

theorem wellFormed_whileOk_cons {prm : Params} {a : HostAction} {as : List HostAction} :
    PortItem.wellFormed prm (.whileOk (a :: as)) = true ↔
      a.wellFormed prm = true ∧ PortItem.wellFormed prm (.whileOk as) = true := by
  rw [PortItem.wellFormed, List.all_cons, Bool.and_eq_true, PortItem.wellFormed]

theorem wellFormed_of_nextAction {a : HostAction} (h : s.hostWellFormed = true) (ha : s.nextAction = some a) :
    a.wellFormed s.params = true := by
  obtain ⟨hp, _⟩ | hp := pending_of_nextAction ha
  · exact wellFormed_of_mem_pending h (hp ▸ List.mem_cons_self)
  · exact (wellFormed_whileOk_cons.mp (wellFormed_of_mem_pending h (hp ▸ List.mem_cons_self))).1

/-- The invariant, with a list of host actions that all exist. -/
structure State.Sound (s : State) : Prop where
  inv : s.Inv
  host : s.hostWellFormed = true

theorem step_params (h : step s = .next t) : t.params = s.params := (constantsNeverChange s t h).2.2

theorem step_sound (hs : s.Sound) (h : step s = .next t) : t.Sound := by
  refine ⟨step_inv hs.inv h, List.all_eq_true.mpr fun item hmem => ?_⟩
  rw [step_params h]
  obtain hp | ⟨a, hsequence, hp⟩ := step_pending h
  · exact wellFormed_of_mem_pending hs.host (List.mem_of_mem_tail (hp ▸ hmem))
  · rw [hp] at hmem
    rcases List.mem_cons.mp hmem with rfl | hmem
    · exact (wellFormed_whileOk_cons.mp (wellFormed_of_mem_pending hs.host (hsequence ▸ List.mem_cons_self))).2
    · exact wellFormed_of_mem_pending hs.host (List.mem_of_mem_tail hmem)

theorem step_ne_fault (hs : s.Sound) (f : Fault) : step s ≠ .fault f := by
  intro hf
  cases ha : s.nextAction with
  | none => cases (step_of_nextAction_none ha).symm.trans hf
  | some a =>
    rw [step_of_nextAction ha] at hf
    have hexists : a.wellFormed s.params = true := wellFormed_of_nextAction hs.host ha
    exact perform_ne_fault (s := s.popItem) (hs.inv.setPending _) hexists f (mapNext_eq_fault.mp hf)

theorem step_completes (hs : s.Sound) (hks : s.params.ks = .chacha20) : ∃ t, step s = .next t := by
  cases ha : s.nextAction with
  | none => exact ⟨_, step_of_nextAction_none ha⟩
  | some a =>
    have hexists : a.wellFormed s.params = true := wellFormed_of_nextAction hs.host ha
    obtain ⟨u, hu⟩ := perform_completes (s := s.popItem) (hs.inv.setPending _) hks hexists
    exact ⟨_, (step_of_nextAction ha).trans (congrArg _ hu)⟩

theorem runSteps_ne_fault (hs : s.Sound) (k : Nat) (f : Fault) : runSteps k s ≠ .fault f := by
  induction k generalizing s with
  | zero => nofun
  | succ k ih =>
    cases hstep : step s with
    | next t =>
      rw [runSteps_succ hstep]
      exact ih (step_sound hs hstep)
    | fault g => exact absurd hstep (step_ne_fault hs g)
    | refused r =>
      rw [runSteps, hstep]
      nofun

theorem runSteps_completes (hs : s.Sound) (hks : s.params.ks = .chacha20) (k : Nat) :
    ∃ t, runSteps k s = .next t ∧ t.Sound := by
  induction k generalizing s with
  | zero => exact ⟨s, rfl, hs⟩
  | succ k ih =>
    obtain ⟨t, hstep⟩ := step_completes hs hks
    rw [runSteps_succ hstep]
    exact ih (step_sound hs hstep) (step_params hstep ▸ hks)

/-! Every run ends: what is left to do shrinks with every step. -/

/-- How many steps an item can take, and one more for a sequence, which may be empty. -/
def PortItem.work : PortItem → Nat
  | .act _ => 1
  | .whileOk as => as.length + 1

def State.work (s : State) : Nat := (s.pending.map PortItem.work).sum

theorem PortItem.work_pos (item : PortItem) : 0 < item.work := by
  cases item <;> simp [PortItem.work]

theorem step_work_lt (h : step s = .next t) (hpending : s.pending ≠ []) : t.work < s.work := by
  obtain ht | ⟨a, hs, ht⟩ := step_pending h
  · obtain ⟨item, rest, hs⟩ := List.exists_cons_of_ne_nil hpending
    rw [State.work, State.work, ht, hs, List.tail_cons, List.map_cons, List.sum_cons]
    exact Nat.lt_add_of_pos_left item.work_pos
  · rw [State.work, State.work, ht, hs, List.map_cons, List.sum_cons, List.tail_cons, List.map_cons, List.sum_cons,
      PortItem.work, PortItem.work, List.length_cons]
    omega

theorem runSteps_ends (hs : s.Sound) (hks : s.params.ks = .chacha20) :
    ∃ (k : Nat) (t : State), runSteps k s = .next t ∧ t.pending = [] := by
  induction hwork : s.work using Nat.strong_induction_on generalizing s with
  | _ n ih =>
    by_cases hp : s.pending = []
    · exact ⟨0, s, rfl, hp⟩
    · obtain ⟨u, hstep⟩ := step_completes hs hks
      obtain ⟨k, t, hrun, ht⟩ :=
        ih u.work (hwork ▸ step_work_lt hstep hp) (step_sound hs hstep) (step_params hstep ▸ hks) rfl
      exact ⟨k + 1, t, (runSteps_succ hstep k).trans hrun, ht⟩

/-- Settles O51: soundness is kept from step to step and rules out a fault; under the default it rules out a refusal too, and
the measure `State.work` brings the run to an end. -/
theorem soundRunsNeverFault : Obligations.SoundRunsNeverFault := by
  intro s hinv hhost
  have hs : s.Sound := ⟨hinv, hhost⟩
  refine ⟨runSteps_ne_fault hs, fun hks => ⟨fun k => ?_, runSteps_ends hs hks⟩⟩
  obtain ⟨t, hrun, ht⟩ := runSteps_completes hs hks k
  exact ⟨t, hrun, ht.inv, ht.host⟩

end Runs

end Sys2Proof.Machine

/-! Byte strings as numbers (00_scope.md R14), the counter's bytes (30_encoding.md R89) and the order of the nonces
(43_nonce_sequencer.md R179). -/

namespace Sys2Proof.Machine

section BigEndian

theorem natOfBe_append_singleton (b : Bytes) (x : Byte) : natOfBe (b ++ [x]) = 256 * natOfBe b + x.toNat := by
  rw [natOfBe, List.foldl_append]
  rfl

theorem natOfBe_append (a b : Bytes) : natOfBe (a ++ b) = natOfBe a * 256 ^ b.length + natOfBe b := by
  induction b using List.reverseRecOn with
  | nil => simp [natOfBe]
  | append_singleton b x ih =>
    rw [← List.append_assoc, natOfBe_append_singleton, ih, natOfBe_append_singleton, List.length_append,
      List.length_singleton, pow_succ]
    ring

theorem natOfBe_lt (b : Bytes) : natOfBe b < 256 ^ b.length := by
  induction b using List.reverseRecOn with
  | nil => simp [natOfBe]
  | append_singleton b x ih =>
    have hx := x.isLt
    rw [natOfBe_append_singleton, List.length_append, List.length_singleton, pow_succ]
    omega

/-- Two strings of one length that read alike are equal: the last byte is the number modulo 256. -/
theorem natOfBe_injective {a b : Bytes} (hlen : a.length = b.length) (h : natOfBe a = natOfBe b) : a = b := by
  induction a using List.reverseRecOn generalizing b with
  | nil => exact (List.length_eq_zero_iff.mp hlen.symm).symm
  | append_singleton a x ih =>
    obtain rfl | ⟨b, y, rfl⟩ := b.eq_nil_or_concat'
    · simp at hlen
    · rw [natOfBe_append_singleton, natOfBe_append_singleton] at h
      have hx := x.isLt
      have hy := y.isLt
      rw [ih (by simpa using hlen) (by omega), BitVec.eq_of_toNat_eq (x := x) (y := y) (by omega)]

theorem be64_fromBe64 {b : Bytes} (hb : b.length = 8) : be64 (fromBe64 b) = b := by
  have hlt : natOfBe b < 2 ^ 64 := (natOfBe_lt b).trans_eq (by rw [hb]; norm_num)
  refine natOfBe_injective (by rw [be64_length, hb]) ?_
  rw [natOfBe_be64, fromBe64, BitVec.toNat_ofNat, Nat.mod_eq_of_lt hlt]

end BigEndian

/-- Settles O16: the bytes by their offsets, and the two round trips of `be64`. -/
theorem counterEncodingIsBigEndian : Obligations.CounterEncodingIsBigEndian := by
  refine ⟨fun c => ⟨natOfBe_be64 c, be64_length c, fun k hk => ?byte⟩, fun _ _ => be64_injective, fun _ => be64_fromBe64⟩
  case byte =>
    have hpos : 8 * (7 - k) = 56 - 8 * k := by omega
    rw [be64_getD c k hk, byteOf, hpos]

/-- Settles O34: below the wrap the second nonce has the same first four bytes, and eight bytes that are one more. -/
theorem noncesIncreaseUntilTheWrap : Obligations.NoncesIncreaseUntilTheWrap := by
  intro s hctr
  refine ⟨_, _, exec_nextn s, exec_nextn _, ?_⟩
  have hnext : (s.ctr + 1#64).toNat = s.ctr.toNat + 1 := by
    rw [BitVec.toNat_add, BitVec.toNat_ofNat]
    omega
  rw [afterNextn_n, afterNextn_n, afterNextn_devid, afterNextn_ctr, nonceAt_toList, nonceAt_toList, natOfBe_append,
    natOfBe_append, natOfBe_be64, natOfBe_be64, be64_length, be64_length, hnext]
  omega

end Sys2Proof.Machine

/-! The keystream (00_scope.md R15, 41_keystream_generator.md R131, R140, R143): rotation as arithmetic, the bytes of a
block, the beginning of a longer keystream, and `apply` at the end of the counter's range and on flipped bits. -/

namespace Sys2Proof.Machine

section Rotation

variable (a : Word) {n : Nat}

/-- The bits shifted out on the left and those shifted in on the right do not meet. -/
theorem rotl32_toNat (hn : n < 32) : (rotl32 a n).toNat = a.toNat * 2 ^ n % 2 ^ 32 + a.toNat / 2 ^ (32 - n) := by
  have hsplit : 2 ^ (32 - n) * 2 ^ n = 2 ^ 32 := by rw [← pow_add, Nat.sub_add_cancel hn.le]
  have hlow : a.toNat / 2 ^ (32 - n) < 2 ^ n := by
    rw [Nat.div_lt_iff_lt_mul (by positivity), mul_comm, hsplit]
    exact a.isLt
  have hhigh : a.toNat * 2 ^ n % 2 ^ 32 = (a.toNat % 2 ^ (32 - n)) <<< n := by
    rw [← hsplit, Nat.mul_mod_mul_right, Nat.shiftLeft_eq]
  rw [rotl32, BitVec.toNat_or, BitVec.toNat_shiftLeft, BitVec.toNat_ushiftRight, Nat.shiftLeft_eq,
    Nat.shiftRight_eq_div_pow, hhigh, ← Nat.shiftLeft_add_eq_or_of_lt hlow]

end Rotation

/-- Settles O23: the equation holds for every `n` below 32, 0 included. -/
theorem rotationIsTheSpecsArithmetic : Obligations.RotationIsTheSpecsArithmetic := fun a _ _ => rotl32_toNat a

/-- Strings of one length with the same bytes are equal. -/
theorem ext_byteAt {a b : Bytes} (hlen : a.length = b.length) (h : ∀ i, i < a.length → byteAt a i = byteAt b i) :
    a = b := by
  refine List.ext_getElem hlen fun i ha hb => ?_
  have hi := h i ha
  rwa [byteAt, byteAt, List.getD_eq_getElem _ _ ha, List.getD_eq_getElem _ _ hb] at hi

/-- R140 for words of any number. -/
theorem byteAt_flatMap_le32 (ws : List Word) {i m : Nat} (hi : i < ws.length) (hm : m < 4) :
    byteAt (ws.flatMap le32) (4 * i + m) = byteOf m ws[i] := by
  induction ws generalizing i with
  | nil => exact absurd hi (Nat.not_lt_zero i)
  | cons w ws ih =>
    rw [List.flatMap_cons]
    cases i with
    | zero =>
      rw [Nat.mul_zero, Nat.zero_add, byteAt_append_of_lt _ hm, byteAt, le32_getD w m hm, List.getElem_cons_zero]
    | succ i =>
      have hpos : 4 * (i + 1) + m = 4 + (4 * i + m) := by omega
      rw [hpos, byteAt_append_add _ (le32_length w), ih (Nat.lt_of_succ_lt_succ hi), List.getElem_cons_succ]

/-- Settles O25: the sixteen words one after the other, four bytes each. -/
theorem blockByteOrder : Obligations.BlockByteOrder := by
  refine fun key nonce j => ⟨chachaBlock_length key nonce j, fun i m hi hm => ?_⟩
  have hlen : i < (chachaWords key nonce j).toList.length := by rwa [Vector.length_toList]
  rw [chachaBlock, byteAt_flatMap_le32 _ hlen hm, Vector.getElem_toList, byteOf]

section Prefix

variable (ks : KsChoice) (key nonce : Bytes) {m n : Nat}

/-- A keystream byte does not depend on how many are drawn, so fewer are a beginning of more. -/
theorem slice_keystream (h : m ≤ n) : slice (keystream ks key nonce n) 0 m = keystream ks key nonce m := by
  have hlen : (slice (keystream ks key nonce n) 0 m).length = m := by
    rw [slice_length, keystream_length, Nat.sub_zero, Nat.sub_zero, min_eq_left h]
  refine ext_byteAt (by rw [hlen, keystream_length]) fun i hi => ?_
  rw [hlen] at hi
  rw [byteAt_slice _ _ _ _ hi, zero_add, byteAt_keystream ks key nonce (hi.trans_le h), byteAt_keystream ks key nonce hi]

end Prefix

/-- Settles O26: the lengths, the bytes by their blocks, and the beginnings. -/
theorem keystreamIsBlocksEndToEnd : Obligations.KeystreamIsBlocksEndToEnd := fun ks key nonce n =>
  ⟨keystream_length ks key nonce n, ksBlock_length ks key nonce, fun _ => byteAt_keystream ks key nonce,
    fun _ => slice_keystream ks key nonce⟩

/-- Settles O31: the default is always ready, and its block `j` is the cipher's block of counter `j`. -/
theorem applyUnderTheDefaultCipher : Obligations.ApplyUnderTheDefaultCipher := by
  refine fun s hwf hcap => ⟨fun hks => ?default, execApply_of_exhausted hcap⟩
  case default =>
    refine ⟨_, execApply_of_ready hcap (cipherReady_of_chacha20 hks), appliedD_wf hwf, fun i hi => ?_,
      fun a => appliedD_read_of_ge hwf⟩
    rw [appliedD_read_of_lt hwf hi, hks]
    rfl

theorem apply_of_exhausted {ks : KsChoice} {key nonce data : Bytes} (hkey : key.length = 32) (hnonce : nonce.length = 12)
    (hks : ksInitOk ks key nonce = true) (hroom : ksRoom ks < data.length) : apply ks key nonce data = none := by
  rw [apply, if_neg (not_not.mpr hkey), if_neg (not_not.mpr hnonce), if_neg (ne_false_of_eq_true hks), if_pos hroom]

/-- Settles O58: the default serves `ksRoom`, which is 2^38 bytes, and accepts every key and nonce. -/
theorem applyStopsPastTheBlockCounter : Obligations.ApplyStopsPastTheBlockCounter := by
  intro key nonce data hkey hnonce
  rw [chacha20_room]
  exact ⟨fun hroom => ⟨_, apply_of_served hkey hnonce rfl hroom⟩, apply_of_exhausted hkey hnonce rfl,
    fun ks => apply_of_exhausted hkey hnonce⟩

section Flip

variable {a k : Bytes} {i : Nat}

/-- A mask on one byte of the data is a mask on that byte of the exclusive or. -/
theorem xorBytes_set (hi : i < a.length) (hk : i < k.length) (mask : Byte) :
    xorBytes (a.set i (byteAt a i ^^^ mask)) k = (xorBytes a k).set i (byteAt (xorBytes a k) i ^^^ mask) := by
  have hmask : byteAt a i ^^^ mask ^^^ k[i] = byteAt (xorBytes a k) i ^^^ mask := by
    rw [byteAt_xorBytes hi hk, byteAt, byteAt, List.getD_eq_getElem k _ hk]
    ac_rfl
  rw [← hmask]
  refine List.ext_getElem (by simp) fun j _ _ => ?_
  by_cases hij : i = j
  · subst hij
    simp [xorBytes]
  · simp [xorBytes, hij]

end Flip

/-- Settles O57: the key, the nonce and the length are as before, so `apply` succeeds again with the same keystream. -/
theorem flippedBitsPassThrough : Obligations.FlippedBitsPassThrough := by
  intro ks key nonce ct pt i mask hi h
  obtain rfl := eq_xorBytes_of_apply h
  obtain ⟨_, he⟩ | ⟨_, _, he⟩ | ⟨_, _, _, he⟩ | ⟨_, _, _, _, he⟩ | ⟨hkey, hnonce, hks, hroom, _⟩ :=
    apply_cases ks key nonce ct
  case inr.inr.inr.inr =>
    have hlen : (ct.set i (byteAt ct i ^^^ mask)).length = ct.length := List.length_set
    rw [apply_of_served hkey hnonce hks (hlen.trans_le hroom), hlen, xorBytes_set hi (by rwa [keystream_length])]
  all_goals cases he.symm.trans h

end Sys2Proof.Machine

/-! Failures of deserialize (40_coordinate_codec.md R113 to R115) and of short packets (44_packet_framer.md R192, R198). -/

namespace Sys2Proof.Machine

section Fails

variable {policy : FlagPolicy} {b : Bytes} {e : CmdError}

/-- Where the flag is read, the length decides. -/
theorem deserialize_eq_error_iff_of_flag_ok {present : Bool} (hflag : flagPresent policy (byteAt b 8) = .ok present) :
    deserialize policy b = .error e ↔ e = .malformedPlaintext ∧ b.length < recordLength present := by
  rw [deserialize_of_flag_ok hflag]
  split
  next hshort => simp [hshort, eq_comm]
  next hlong => simp [hlong]

/-- A rejected flag fails at every length. -/
theorem deserialize_eq_error_iff_of_rejected (hres : 2 ≤ (byteAt b 8).toNat) :
    deserialize .reject b = .error e ↔ e = .malformedPlaintext := by
  have herr : deserialize .reject b = .error .malformedPlaintext := by
    rcases lt_or_ge b.length 9 with hshort | hlong
    · exact deserialize_of_length_lt_nine hshort
    · exact deserialize_of_flag_error hlong (flagPresent_of_reserved hres)
  rw [herr, Except.error.injEq, eq_comm]

end Fails

/-- Settles O21: the flag and the policy decide which length the record needs, if they do not reject it. -/
theorem deserializeFailsExactly : Obligations.DeserializeFailsExactly := by
  intro policy b e
  have h9 : b.length < 9 → b.length < 13 := fun h => h.trans (by omega)
  rcases flag_zero_or_one_or_reserved (byteAt b 8) with hflag | hflag | hres
  · rw [deserialize_eq_error_iff_of_flag_ok (present := false) (by rw [hflag]; rfl)]
    simp [hflag, recordLength]
  · rw [deserialize_eq_error_iff_of_flag_ok (present := true) (by rw [hflag]; rfl)]
    simp [hflag, recordLength, or_iff_right_of_imp h9]
  · have hne : byteAt b 8 ≠ 0x01#8 := by bv_omega
    cases policy with
    | reject =>
      rw [deserialize_eq_error_iff_of_rejected hres]
      simp [hres]
    | nonzeroPresent =>
      rw [deserialize_eq_error_iff_of_flag_ok (present := true) (flagPresent_of_reserved hres)]
      simp [hres, recordLength, or_iff_right_of_imp h9]
    | absent =>
      rw [deserialize_eq_error_iff_of_flag_ok (present := false) (flagPresent_of_reserved hres)]
      simp [hne, recordLength]

/-- `apply` keeps the length (42_xor_datapath.md R160). -/
theorem length_of_apply {ks : KsChoice} {key nonce data r : Bytes} (h : apply ks key nonce data = some (.ok r)) :
    r.length = data.length := by
  rw [eq_xorBytes_of_apply h, xorBytes_keystream_length]

/-- Settles O40: the ciphertext of a 20-byte packet has 8 bytes, and so has what `apply` makes of it. -/
theorem shortPacketsAreRejected : Obligations.ShortPacketsAreRejected := by
  refine ⟨fun raw hraw => if_pos hraw, fun raw hraw => ⟨_, _, parsePacket_of_le hraw.ge, fun ks policy key pt happly => ?_⟩⟩
  refine deserialize_of_length_lt_nine ?_
  rw [length_of_apply happly, slice_length]
  omega

end Sys2Proof.Machine

/-! A command on a changed state: what `STATUS`, the absent `ALT`, the constants and the stale bytes do to its answer, and
the codes it leaves (10_state.md R25, R28, R30, R32; 60_exceptions.md R226, R229). -/

namespace Sys2Proof.Machine

/-! ## `STATUS` -/

section Status

variable (s : State) (c : Byte)

theorem afterDes_setStatus : afterDes (s.setStatus c) = afterDes s := by
  cases hd : deserialize s.params.flagPolicy (desData s) with
  | ok r => exact (afterDes_of_ok hd).trans (afterDes_of_ok hd).symm
  | error e => exact (afterDes_of_error hd).trans (afterDes_of_error hd).symm

/-- Each command overwrites `STATUS`, and its conditions are on other registers. -/
theorem exec_setStatus (i : Instr) : exec i (s.setStatus c) = exec i s := by
  cases i with
  | ser => rw [exec_ser_eq, exec_ser_eq]; rfl
  | des => rw [exec_des_eq, exec_des_eq, afterDes_setStatus]; rfl
  | apply => rw [exec_apply_eq, exec_apply_eq]; rfl
  | nextn => rw [exec_nextn, exec_nextn]; rfl
  | build => rw [exec_build_eq, exec_build_eq]; rfl
  | parse => rw [exec_parse_eq, exec_parse_eq]; rfl

end Status

/-- Settles O44: R32 is `exec_setStatus`. -/
theorem noCommandReadsStatus : Obligations.NoCommandReadsStatus := fun i s c => exec_setStatus s c i

/-- Settles O43: each ending of a command by its code. -/
theorem statusCodesOfEachCommand : Obligations.StatusCodesOfEachCommand := by
  refine fun s t => ⟨fun h => ?ser, fun h => ?des, fun h => ?apply, fun h => ?nextn, fun h => ?build, fun h => ?parse⟩
  case ser => obtain ⟨_, he⟩ | ⟨_, he⟩ := execSer_cases s <;> cases he.symm.trans h <;> simp
  case des => obtain ⟨_, he⟩ | ⟨_, ⟨_, he⟩ | ⟨c, _, he⟩⟩ := execDes_cases s <;> cases he.symm.trans h <;> simp
  case apply =>
    obtain ⟨_, ⟨hks, rfl⟩ | ⟨_, rfl⟩⟩ := exec_apply_eq_next h
    · exact .inr ⟨rfl, hks⟩
    · exact .inl rfl
  case nextn =>
    cases (exec_nextn s).symm.trans h
    rfl
  case build => obtain ⟨_, he⟩ | ⟨_, ⟨_, he⟩ | ⟨_, he⟩⟩ := execBuild_cases s <;> cases he.symm.trans h <;> simp
  case parse =>
    obtain ⟨_, ⟨_, rfl⟩ | ⟨_, _, rfl⟩ | ⟨_, _, rfl⟩⟩ := exec_parse_eq_next h
    · exact .inr (.inr rfl)
    · exact .inr (.inl rfl)
    · exact .inl rfl

/-! ## `ALT` while absent -/

theorem mapNext_ite (f : State → State) (p : Prop) [Decidable p] (a b : Result) :
    mapNext f (if p then a else b) = if p then mapNext f a else mapNext f b := apply_ite _ _ _ _

section Alt

variable {s : State}

theorem stagedCoord_setAlt (haf : s.af = false) (w : Word) : stagedCoord (s.setAlt w) = stagedCoord s := by
  rw [stagedCoord, stagedCoord, State.setAlt_af, haf]
  rfl

theorem afterSer_setAlt (haf : s.af = false) (w : Word) : afterSer (s.setAlt w) = (afterSer s).setAlt w := by
  rw [afterSer, stagedCoord_setAlt haf]
  rfl

theorem exec_setAlt (haf : s.af = false) (w : Word) {i : Instr} (hi : i ≠ .des) :
    exec i (s.setAlt w) = mapNext (State.setAlt w) (exec i s) := by
  cases i with
  | ser =>
    rw [exec_ser_eq, exec_ser_eq, afterSer_setAlt haf, mapNext, apply_ite (State.setAlt w)]
    rfl
  | des => exact absurd rfl hi
  | apply =>
    rw [exec_apply_eq, exec_apply_eq, mapNext_ite, mapNext_ite, mapNext_ite]
    rfl
  | nextn => rw [exec_nextn, exec_nextn]; rfl
  | build =>
    have hbuild : afterBuild (s.setAlt w) = (afterBuild s).setAlt w := by
      rw [afterBuild, afterBuild, apply_ite (State.setAlt w)]
      rfl
    rw [exec_build_eq, exec_build_eq, mapNext_ite, hbuild]
    rfl
  | parse =>
    rw [exec_parse_eq, exec_parse_eq, mapNext_ite, mapNext, apply_ite (State.setAlt w), apply_ite (State.setAlt w)]
    rfl

end Alt

/-- Settles O18: `DES` takes `ALT` from the data, or fails and leaves it; the other commands do not touch it. -/
theorem altIsNotReadWhileAbsent : Obligations.AltIsNotReadWhileAbsent := by
  intro i s t w haf hexec
  by_cases hi : i = .des
  · subst hi
    obtain ⟨_, he⟩ | ⟨hcap, ⟨herr, he⟩ | ⟨c, hok, he⟩⟩ := execDes_cases s <;> cases he.symm.trans hexec
    · exact .inl (execDes_of_error (s := s.setAlt w) hcap herr)
    · exact .inr (execDes_of_ok (s := s.setAlt w) hcap hok)
  · rw [exec_setAlt haf w hi, hexec]
    exact .inl rfl

/-! ## `DEVID`, `CTR` and the nonce held before `PARSE` -/

/-- Settles O41: `PARSE` reads the packet and the capacities, and writes its own `N`. -/
theorem parseChecksNothingOfTheNonce : Obligations.ParseChecksNothingOfTheNonce := by
  intro s t dev c n hexec hok
  obtain ⟨hcap, ⟨_, rfl⟩ | ⟨_, _, rfl⟩ | ⟨h20, hfits, rfl⟩⟩ := exec_parse_eq_next hexec
  · cases hok
  · cases hok
  · exact exec_parse (s := ((s.withDevid dev).setCtr c).setN n) hcap h20 hfits

/-! ## `KEY` -/

section Key

variable {s t u : State} (k : Vector Byte 32)

theorem afterDes_withKey (s : State) : afterDes (s.withKey k) = (afterDes s).withKey k := by
  cases hd : deserialize s.params.flagPolicy (desData s) with
  | ok r =>
    rw [afterDes_of_ok hd, afterDes_of_ok (s := s.withKey k) hd]
    rfl
  | error e =>
    rw [afterDes_of_error hd, afterDes_of_error (s := s.withKey k) hd]
    rfl

theorem exec_withKey {i : Instr} (hi : i ≠ .apply) : exec i (s.withKey k) = mapNext (State.withKey k) (exec i s) := by
  cases i with
  | ser =>
    rw [exec_ser_eq, exec_ser_eq, mapNext, apply_ite (State.withKey k)]
    rfl
  | des =>
    rw [exec_des_eq, exec_des_eq, mapNext_ite, afterDes_withKey]
    rfl
  | apply => exact absurd rfl hi
  | nextn => rw [exec_nextn, exec_nextn]; rfl
  | build =>
    have hbuild : afterBuild (s.withKey k) = (afterBuild s).withKey k := by
      rw [afterBuild, afterBuild, apply_ite (State.withKey k)]
      rfl
    rw [exec_build_eq, exec_build_eq, mapNext_ite, hbuild]
    rfl
  | parse =>
    rw [exec_parse_eq, exec_parse_eq, mapNext_ite, mapNext, apply_ite (State.withKey k), apply_ite (State.withKey k)]
    rfl

theorem issue_withKey {code : Byte} (hcode : code ≠ 0x03#8) :
    issue code (s.withKey k) = mapNext (State.withKey k) (issue code s) := by
  cases hdec : decodeCode code with
  | ok i =>
    rw [issue_of_decode hdec, issue_of_decode hdec]
    refine exec_withKey k ?_
    rintro rfl
    exact hcode (decodeCode_eq_ok_iff.mp hdec)
  | error e =>
    rw [issue_of_decode_error hdec, issue_of_decode_error hdec]
    rfl

theorem perform_withKey {a : HostAction} (ha : a ≠ .issue 0x03#8) :
    perform a (s.withKey k) = mapNext (State.withKey k) (perform a s) := by
  cases a with
  | readReg r => cases r <;> rfl
  | writeLat v | writeLon v | writeAlt v | writeAf v | reset => rfl
  | readByte b i =>
    rw [perform, perform, hostReadByte, hostReadByte, mapNext_ite]
    cases b <;> rfl
  | writeByte b i v =>
    rw [perform, perform, hostWriteByte, hostWriteByte, mapNext_ite]
    cases b <;> rfl
  | writeN i v =>
    rw [perform, perform, hostWriteN, hostWriteN, apply_dite (mapNext (State.withKey k))]
    rfl
  | writeDlen v | writePlen v =>
    rw [perform, perform, hostWriteLength, hostWriteLength, mapNext_ite]
    rfl
  | issue code => exact issue_withKey k fun hcode => ha (congrArg _ hcode)

/-- Going on in a sequence depends on `STATUS` alone. -/
theorem continueWhileOk_comm {f : State → State} (hstatus : ∀ x, (f x).status = x.status)
    (hpending : ∀ x, (f x).pending = x.pending) (hset : ∀ l x, f (State.setPending l x) = (f x).setPending l)
    (a : HostAction) (as : List HostAction) (s : State) : continueWhileOk a as (f s) = f (continueWhileOk a as s) := by
  rw [continueWhileOk, continueWhileOk, hstatus, hpending, apply_ite f, apply_ite f, hset]

theorem continueWhileOk_withKey (a : HostAction) (as : List HostAction) (s : State) :
    continueWhileOk a as (s.withKey k) = (continueWhileOk a as s).withKey k :=
  continueWhileOk_comm (f := State.withKey k) (fun _ => rfl) (fun _ => rfl) (fun _ _ => rfl) a as s

theorem continueWhileOk_setD (m : Memory) (a : HostAction) (as : List HostAction) (s : State) :
    continueWhileOk a as (s.setD m) = (continueWhileOk a as s).setD m :=
  continueWhileOk_comm (f := State.setD m) (fun _ => rfl) (fun _ => rfl) (fun _ _ => rfl) a as s

theorem step_withKey_of_nextAction {a : HostAction} (ha : s.nextAction = some a) :
    step (s.withKey k) = mapNext (continueWhileOk a s.restActions) (perform a (s.popItem.withKey k)) :=
  step_of_nextAction (s := s.withKey k) ha

theorem step_withKey (h : step s = .next t) (ha : s.nextAction ≠ some (.issue 0x03#8)) :
    step (s.withKey k) = .next (t.withKey k) := by
  obtain ⟨hnone, rfl⟩ | ⟨a, u, hsome, hperform, rfl⟩ := step_eq_next h
  · exact step_of_nextAction_none (s := s.withKey k) hnone
  · have hcode : a ≠ .issue 0x03#8 := by
      rintro rfl
      exact ha hsome
    rw [step_withKey_of_nextAction k hsome, perform_withKey k hcode, hperform, mapNext, mapNext,
      continueWhileOk_withKey]

/-- Two keystream bytes on one byte of data. -/
theorem xor_change_mask (x k₁ k₂ : Byte) : x ^^^ k₂ = (x ^^^ k₁) ^^^ (k₁ ^^^ k₂) := by
  calc x ^^^ k₂
    _ = x ^^^ (k₁ ^^^ k₁) ^^^ k₂ := by rw [BitVec.xor_self, BitVec.xor_zero]
    _ = (x ^^^ k₁) ^^^ (k₁ ^^^ k₂) := by ac_rfl

/-- R25 for `APPLY`: the key reaches `D` below `DLEN` and nothing else. -/
theorem exec_apply_withKey (h : exec .apply s = .next t) (hwf : s.d.wf = true)
    (hks : ksInitOk s.params.ks k.toList s.n.toList = ksInitOk s.params.ks s.key.toList s.n.toList) :
    ∃ m, exec .apply (s.withKey k) = .next ((t.withKey k).setD m) ∧ m.wf = true ∧
      (∀ a, s.dlen.toNat ≤ a → m.read a = t.d.read a) ∧
      (ksInitOk s.params.ks s.key.toList s.n.toList = true → ∀ i, i < s.dlen.toNat →
        m.read i = t.d.read i ^^^
          (byteAt (ksBlock s.params.ks s.key.toList s.n.toList (i / ksBlockLen s.params.ks)) (i % ksBlockLen s.params.ks)
            ^^^ byteAt (ksBlock s.params.ks k.toList s.n.toList (i / ksBlockLen s.params.ks))
              (i % ksBlockLen s.params.ks))) ∧
      (ksInitOk s.params.ks s.key.toList s.n.toList = false → m = t.d) := by
  obtain ⟨hcap, ⟨hrefused, rfl⟩ | ⟨⟨hok, hroom⟩, rfl⟩⟩ := exec_apply_eq_next h
  · refine ⟨s.d, execApply_of_refused (s := s.withKey k) hcap (hks.trans hrefused), hwf, fun _ _ => rfl,
      fun hok => ?_, fun _ => rfl⟩
    cases hok.symm.trans hrefused
  · refine ⟨appliedD (s.withKey k), exec_apply (s := s.withKey k) hcap ⟨hks.trans hok, hroom⟩,
      appliedD_wf (s := s.withKey k) hwf, fun a ha => ?_, fun _ i hi => ?_, fun hrefused => ?_⟩
    · rw [afterApply_d, appliedD_read_of_ge hwf ha]
      exact appliedD_read_of_ge (s := s.withKey k) hwf ha
    · rw [afterApply_d, appliedD_read_of_lt hwf hi, ← xor_change_mask]
      exact appliedD_read_of_lt (s := s.withKey k) hwf hi
    · cases hok.symm.trans hrefused

end Key

/-- Settles O48: no other action reads `KEY`, and going on after `APPLY` does not read `D`. -/
theorem keyReachesOnlyTheData : Obligations.KeyReachesOnlyTheData := by
  refine fun s t k hstep => ⟨step_withKey k hstep, fun ha hwf hks => ?apply⟩
  case apply =>
    rw [step_of_nextAction ha] at hstep
    obtain ⟨u, hperform, rfl⟩ := mapNext_eq_next.mp hstep
    obtain ⟨l, hl⟩ := continueWhileOk_eq_setPending (.issue 0x03#8) s.restActions u
    have hd : (continueWhileOk (.issue 0x03#8) s.restActions u).d = u.d := by rw [hl, State.setPending_d]
    obtain ⟨m, hexec, hm⟩ :=
      exec_apply_withKey (s := s.popItem) k ((perform_issue .apply s.popItem).symm.trans hperform) hwf hks
    rw [hd]
    refine ⟨m, ?_, hm⟩
    have hperform' : perform (.issue 0x03#8) (s.popItem.withKey k) = .next ((u.withKey k).setD m) :=
      (perform_issue .apply _).trans hexec
    rw [step_withKey_of_nextAction k ha, hperform', mapNext, continueWhileOk_setD, continueWhileOk_withKey]

end Sys2Proof.Machine

/-! Stale bytes and repeated commands (10_state.md R30, 20_memory.md R58): what a command does to two buffers that agree
below the lengths, and what it does on its own end state. -/

namespace Sys2Proof.Machine

section Fields

variable (s : State)
@[simp] theorem afterApply_key : (afterApply s).key = s.key := by simp [afterApply]
@[simp] theorem afterParse_p : (afterParse s).p = s.p := by simp [afterParse]
@[simp] theorem afterParse_plen : (afterParse s).plen = s.plen := by simp [afterParse]
@[simp] theorem afterBuild_params : (afterBuild s).params = s.params := by rw [afterBuild_frame]; simp

theorem afterDes_packet : (afterDes s).p = s.p ∧ (afterDes s).plen = s.plen := by
  cases hd : deserialize s.params.flagPolicy (desData s) with
  | ok c => simp [afterDes_of_ok hd]
  | error e => simp [afterDes_of_error hd]

end Fields

/-! ## Stale bytes -/

/-- Two contents with the same bytes below `n`. -/
def AgreeBelow (m m' : Memory) (n : Nat) : Prop := ∀ a, a < n → m.read a = m'.read a

theorem AgreeBelow.readBytes_eq {m m' : Memory} {n : Nat} (h : AgreeBelow m m' n) : m.readBytes 0 n = m'.readBytes 0 n :=
  Memory.readBytes_congr fun i hi => by rw [zero_add, h i hi]

theorem agreeBelow_writeBytes {m m' : Memory} (hm : m.wf = true) (hm' : m'.wf = true) {v : Bytes} {n : Nat}
    (hn : n = v.length) : AgreeBelow (m.writeBytes 0 v) (m'.writeBytes 0 v) n := by
  subst hn
  intro a ha
  rw [read_writeBytes_zero_of_lt hm ha, read_writeBytes_zero_of_lt hm' ha]

section Stale

variable {s t : State} {m q : Memory}

/-- `s` with other contents of the two buffers. -/
def State.withBuffers (s : State) (m q : Memory) : State := (s.setD m).setP q

theorem desData_withBuffers (h : AgreeBelow m s.d s.dlen.toNat) : desData (s.withBuffers m q) = desData s :=
  h.readBytes_eq

theorem heldPacket_withBuffers (h : AgreeBelow q s.p s.plen.toNat) : heldPacket (s.withBuffers m q) = heldPacket s :=
  h.readBytes_eq

theorem heldCiphertext_withBuffers (h : AgreeBelow q s.p s.plen.toNat) :
    heldCiphertext (s.withBuffers m q) = heldCiphertext s :=
  congrArg (fun packet => slice packet 12 s.plen.toNat) (heldPacket_withBuffers (m := m) h)

theorem afterParse_withBuffers (h : AgreeBelow q s.p s.plen.toNat) :
    afterParse (s.withBuffers m q) = (afterParse s).withBuffers (m.writeBytes 0 (heldCiphertext s)) q := by
  rw [afterParse, heldCiphertext_withBuffers h, heldPacket_withBuffers h]
  rfl

theorem afterDes_withBuffers (h : AgreeBelow m s.d s.dlen.toNat) :
    afterDes (s.withBuffers m q) = (afterDes s).withBuffers m q := by
  have hdata := desData_withBuffers (q := q) h
  cases hd : deserialize s.params.flagPolicy (desData s) with
  | ok c =>
    rw [afterDes_of_ok hd, afterDes_of_ok (s := s.withBuffers m q) (hdata.symm ▸ hd)]
    rfl
  | error e =>
    rw [afterDes_of_error hd, afterDes_of_error (s := s.withBuffers m q) (hdata.symm ▸ hd)]
    rfl

theorem afterBuild_withBuffers (hp : s.p.wf = true) (hq : q.wf = true)
    (hd : AgreeBelow m s.d s.dlen.toNat) (h : AgreeBelow q s.p s.plen.toNat) :
    ∃ q', afterBuild (s.withBuffers m q) = (afterBuild s).withBuffers m q' ∧
      AgreeBelow q' (afterBuild s).p (afterBuild s).plen.toNat := by
  have hpacket : framedPacket (s.withBuffers m q) = framedPacket s :=
    congrArg (fun data => s.n.toList ++ data) (desData_withBuffers (q := q) hd)
  rcases le_or_gt (12 + s.dlen.toNat) s.params.pcap.val with hfits | hsmall
  · refine ⟨q.writeBytes 0 (framedPacket s), ?_, ?_⟩
    · rw [afterBuild_of_le hfits, afterBuild_of_le (s := s.withBuffers m q) hfits, hpacket]
      rfl
    · rw [afterBuild_of_le hfits]
      exact agreeBelow_writeBytes hq hp
        ((toNat_ofNat_of_le_capacity (b := .p) hfits).trans (framedPacket_length s).symm)
  · refine ⟨q, ?_, ?_⟩
    · rw [afterBuild_of_lt hsmall, afterBuild_of_lt (s := s.withBuffers m q) hsmall]
      rfl
    · rw [afterBuild_of_lt hsmall]
      exact h

/-- R30: what a command reads of the buffers lies below the lengths, and what it writes it writes to both. -/
theorem exec_withBuffers {i : Instr} (hexec : exec i s = .next t) (hd : s.d.wf = true) (hp : s.p.wf = true)
    (hm : m.wf = true) (hq : q.wf = true) (hdata : AgreeBelow m s.d s.dlen.toNat)
    (hpacket : AgreeBelow q s.p s.plen.toNat) :
    ∃ m' q', exec i (s.withBuffers m q) = .next (t.withBuffers m' q') ∧
      AgreeBelow m' t.d t.dlen.toNat ∧ AgreeBelow q' t.p t.plen.toNat := by
  cases i with
  | ser =>
    rcases le_or_gt (recordLength s.af) s.params.dcap.val with hfits | hsmall
    · cases (exec_ser hfits).symm.trans hexec
      refine ⟨_, q, exec_ser (s := s.withBuffers m q) hfits, ?_, hpacket⟩
      rw [afterSer_d]
      exact agreeBelow_writeBytes hm hd ((afterSer_dlen_toNat s).trans (serializedBytes_stagedCoord_length s).symm)
    · cases (execSer_of_lt hsmall).symm.trans hexec
      exact ⟨m, q, execSer_of_lt (s := s.withBuffers m q) hsmall, hdata, hpacket⟩
  | des =>
    obtain ⟨hcap, rfl⟩ := exec_des_eq_next hexec
    obtain ⟨_, hd', hdlen'⟩ := afterDes_buffers s
    obtain ⟨hp', hplen'⟩ := afterDes_packet s
    rw [hd', hdlen', hp', hplen']
    exact ⟨m, q, (exec_des (s := s.withBuffers m q) hcap).trans (congrArg _ (afterDes_withBuffers hdata)), hdata, hpacket⟩
  | apply =>
    obtain ⟨hcap, ⟨hrefused, rfl⟩ | ⟨hready, rfl⟩⟩ := exec_apply_eq_next hexec
    · exact ⟨m, q, execApply_of_refused (s := s.withBuffers m q) hcap hrefused, hdata, hpacket⟩
    · refine ⟨appliedD (s.withBuffers m q), q, exec_apply (s := s.withBuffers m q) hcap hready, ?_, hpacket⟩
      rw [afterApply_d, appliedD, appliedD, desData_withBuffers hdata]
      exact agreeBelow_writeBytes hm hd (by rw [xorBytes_keystream_length, desData_length, afterApply_dlen])
  | nextn =>
    cases (exec_nextn s).symm.trans hexec
    refine ⟨m, q, exec_nextn (s.withBuffers m q), ?_, ?_⟩
    · simpa [afterNextn] using hdata
    · simpa [afterNextn] using hpacket
  | build =>
    obtain ⟨hcap, rfl⟩ := exec_build_eq_next hexec
    obtain ⟨q', hbuild, hagree⟩ := afterBuild_withBuffers hp hq hdata hpacket
    refine ⟨m, q', ?_, ?_, hagree⟩
    · rw [← hbuild]
      exact exec_build (s := s.withBuffers m q) hcap
    · rw [afterBuild_d, afterBuild_dlen]
      exact hdata
  | parse =>
    obtain ⟨hcap, ⟨hshort, rfl⟩ | ⟨h20, hsmall, rfl⟩ | ⟨h20, hfits, rfl⟩⟩ := exec_parse_eq_next hexec
    · exact ⟨m, q, execParse_of_short (s := s.withBuffers m q) hcap hshort, hdata, hpacket⟩
    · exact ⟨m, q, execParse_of_lt (s := s.withBuffers m q) hcap h20 hsmall, hdata, hpacket⟩
    · refine ⟨m.writeBytes 0 (heldCiphertext s), q, ?_, ?_, ?_⟩
      · rw [← afterParse_withBuffers hpacket]
        exact exec_parse (s := s.withBuffers m q) hcap h20 hfits
      · rw [afterParse_d]
        exact agreeBelow_writeBytes hm hd ((afterParse_dlen_toNat hfits).trans (heldCiphertext_length s).symm)
      · rwa [afterParse_p, afterParse_plen]

end Stale

/-- Settles O46: the two premises and the two conclusions on bytes are `AgreeBelow`. -/
theorem staleBytesDoNotMatter : Obligations.StaleBytesDoNotMatter := by
  intro i s t m q hd hp hm hq hdata hpacket hexec
  exact exec_withBuffers hexec hd hp hm hq hdata hpacket

/-! ## A command on its own end state -/

section Rewrite

variable {m : Memory}

theorem writeBytes_readBytes (hm : m.wf = true) (n : Nat) : m.writeBytes 0 (m.readBytes 0 n) = m := by
  refine Memory.ext_read (Memory.writeBytes_wf hm _ _) hm fun a => ?_
  rcases lt_or_ge a n with ha | ha
  · rw [read_writeBytes_zero_of_lt hm (by rwa [Memory.readBytes_length]), byteAt, Memory.readBytes_getD, if_pos ha,
      zero_add]
  · exact read_writeBytes_zero_of_ge hm (by rwa [Memory.readBytes_length])

/-- A string written over one that is not longer leaves nothing of it. -/
theorem writeBytes_writeBytes (hm : m.wf = true) {v w : Bytes} (h : v.length ≤ w.length) :
    (m.writeBytes 0 v).writeBytes 0 w = m.writeBytes 0 w := by
  have hv := Memory.writeBytes_wf hm 0 v
  refine Memory.ext_read (Memory.writeBytes_wf hv 0 w) (Memory.writeBytes_wf hm 0 w) fun a => ?_
  rcases lt_or_ge a w.length with ha | ha
  · rw [read_writeBytes_zero_of_lt hv ha, read_writeBytes_zero_of_lt hm ha]
  · rw [read_writeBytes_zero_of_ge hv ha, read_writeBytes_zero_of_ge hm ha, read_writeBytes_zero_of_ge hm (h.trans ha)]

end Rewrite

section Again

variable {s t : State}

/-- A failed command fails again, as it left all it read. -/
theorem exec_again_of_failed {i : Instr} (h : exec i s = .next t) (hfailed : t.status ≠ 0#8) : exec i t = .next t := by
  have ht := failureChangesOnlyStatus i s t h hfailed
  rw [ht, exec_setStatus, ← ht, h]

theorem afterSer_afterSer (hwf : s.d.wf = true) : afterSer (afterSer s) = afterSer s := by
  have hrecord : stagedCoord (afterSer s) = stagedCoord s := rfl
  rw [afterSer, hrecord, afterSer_d, writeBytes_writeBytes hwf le_rfl]
  rfl

theorem afterBuild_afterBuild (hwf : s.p.wf = true) (h : 12 + s.dlen.toNat ≤ s.params.pcap.val) :
    afterBuild (afterBuild s) = afterBuild s := by
  have hpacket : framedPacket (afterBuild s) = framedPacket s := by
    rw [framedPacket, desData, afterBuild_n, afterBuild_d, afterBuild_dlen, framedPacket, desData]
  have hfits : 12 + (afterBuild s).dlen.toNat ≤ (afterBuild s).params.pcap.val := by
    rwa [afterBuild_dlen, afterBuild_params]
  have hp : (afterBuild s).p = s.p.writeBytes 0 (framedPacket s) := by
    rw [afterBuild_of_le h]
    simp
  rw [afterBuild_of_le hfits, hpacket, hp, writeBytes_writeBytes hwf le_rfl, afterBuild_dlen, afterBuild_of_le h]
  rfl

theorem afterParse_afterParse (hwf : s.d.wf = true) : afterParse (afterParse s) = afterParse s := by
  have hpacket : heldPacket (afterParse s) = heldPacket s := by
    rw [heldPacket, afterParse_p, afterParse_plen, heldPacket]
  have hct : heldCiphertext (afterParse s) = heldCiphertext s := by
    rw [heldCiphertext, hpacket, afterParse_plen, heldCiphertext]
  rw [afterParse, hpacket, hct, afterParse_d, afterParse_plen, writeBytes_writeBytes hwf le_rfl]
  apply State.ext_fields <;> simp [afterParse]

theorem afterDes_afterDes_of_ok {c : Coord} (h : deserialize s.params.flagPolicy (desData s) = .ok c) :
    afterDes (afterDes s) = afterDes s := by
  rw [afterDes_of_ok h]
  exact afterDes_of_ok (s := (putCoord c s).setStatus 0#8) h

/-- 42_xor_datapath.md R163 in `D`: the data is back, written over bytes of the same length. -/
theorem appliedD_afterApply (hwf : s.d.wf = true) : appliedD (afterApply s) = s.d := by
  have hdata : desData (afterApply s) =
      xorBytes (desData s) (keystream s.params.ks s.key.toList s.n.toList (desData s).length) := by
    rw [desData, afterApply_d, afterApply_dlen, appliedD_readBytes hwf, desData_length]
  have hback := xorBytes_self_inverse (keystream_length s.params.ks s.key.toList s.n.toList (desData s).length).symm
  have hlen : (desData (afterApply s)).length = (desData s).length := by rw [hdata, xorBytes_keystream_length]
  rw [appliedD, hlen, hdata, afterApply_params, afterApply_key, afterApply_n, hback, afterApply_d, appliedD,
    writeBytes_writeBytes hwf xorBytes_keystream_length.le, desData, writeBytes_readBytes hwf]

theorem afterApply_afterApply (hwf : s.d.wf = true) : afterApply (afterApply s) = s.setStatus 0#8 := by
  rw [afterApply, appliedD_afterApply hwf]
  rfl

theorem cipherReady_afterApply (hready : s.cipherReady) : (afterApply s).cipherReady := by
  simpa [State.cipherReady] using hready

theorem exec_apply_twice (hs : s.Inv) (hready : s.cipherReady) :
    exec .apply (afterApply s) = .next (s.setStatus 0#8) := by
  rw [← afterApply_afterApply hs.d_wf]
  exact exec_apply hs.afterApply.dlen_le (cipherReady_afterApply hready)

theorem exec_ser_again (hs : s.Inv) (h : recordLength s.af ≤ s.params.dcap.val) :
    exec .ser (afterSer s) = .next (afterSer s) :=
  (exec_ser (s := afterSer s) h).trans (congrArg _ (afterSer_afterSer hs.d_wf))

theorem exec_des_again (hs : s.Inv) {c : Coord} (h : deserialize s.params.flagPolicy (desData s) = .ok c) :
    exec .des (afterDes s) = .next (afterDes s) :=
  (exec_des hs.afterDes.dlen_le).trans (congrArg _ (afterDes_afterDes_of_ok h))

theorem exec_build_again (hs : s.Inv) (h : 12 + s.dlen.toNat ≤ s.params.pcap.val) :
    exec .build (afterBuild s) = .next (afterBuild s) :=
  (exec_build hs.afterBuild.dlen_le).trans (congrArg _ (afterBuild_afterBuild hs.p_wf h))

theorem exec_parse_again (hs : s.Inv) (h20 : 20 ≤ s.plen.toNat) (h : s.plen.toNat - 12 ≤ s.params.dcap.val) :
    exec .parse (afterParse s) = .next (afterParse s) := by
  have hexec : exec .parse (afterParse s) = .next (afterParse (afterParse s)) := by
    apply exec_parse <;> rw [afterParse_plen]
    · rw [afterParse_params]; exact hs.plen_le
    · exact h20
    · rwa [afterParse_params]
  rw [hexec, afterParse_afterParse hs.d_wf]

/-- R58 for the commands that write to one place what they read from another. -/
theorem exec_again {i : Instr} (hs : s.Inv) (hi : i = .ser ∨ i = .des ∨ i = .build ∨ i = .parse)
    (h : exec i s = .next t) : exec i t = .next t := by
  by_cases hok : t.status = 0#8
  case neg => exact exec_again_of_failed h hok
  rcases hi with rfl | rfl | rfl | rfl
  · rcases le_or_gt (recordLength s.af) s.params.dcap.val with hfits | hsmall
    · cases (exec_ser hfits).symm.trans h
      exact exec_ser_again hs hfits
    · cases (execSer_of_lt hsmall).symm.trans h
      cases hok
  · obtain ⟨_, rfl⟩ := exec_des_eq_next h
    cases hd : deserialize s.params.flagPolicy (desData s) with
    | ok c => exact exec_des_again hs hd
    | error e =>
      rw [afterDes_of_error hd] at hok
      cases hok
  · obtain ⟨_, rfl⟩ := exec_build_eq_next h
    rcases le_or_gt (12 + s.dlen.toNat) s.params.pcap.val with hfits | hsmall
    · exact exec_build_again hs hfits
    · rw [afterBuild_of_lt hsmall] at hok
      cases hok
  · obtain ⟨_, ⟨_, rfl⟩ | ⟨_, _, rfl⟩ | ⟨h20, hfits, rfl⟩⟩ := exec_parse_eq_next h
    · cases hok
    · cases hok
    · exact exec_parse_again hs h20 hfits

end Again

/-- Settles O45: the nonce determines the counter, so two calls of `NEXTN` in a row emit two nonces. -/
theorem repeatedCommands : Obligations.RepeatedCommands := by
  intro s hs
  have hmoved (c : DWord) : c + 1#64 ≠ c := by bv_omega
  refine ⟨fun i t => exec_again hs, fun hready => ⟨_, exec_apply hs.dlen_le hready, exec_apply_twice hs hready⟩,
    _, _, exec_nextn s, exec_nextn _, hmoved s.ctr, ?_⟩
  rw [afterNextn_n, afterNextn_n, afterNextn_devid, afterNextn_ctr, ne_eq, nonceAt_inj]
  exact (hmoved s.ctr).symm

/-! ## `PARSE` after `BUILD` -/

/-- Settles O39: the packet is cut where it was joined (R194), and `D` and `N` are written with what they hold. -/
theorem parseAfterBuildChangesNothing : Obligations.ParseAfterBuildChangesNothing := by
  intro s hs h8 hfits
  obtain ⟨hplen, hp, _, hstatus⟩ := afterBuild_packet hs.p_wf hfits
  have hlen : (afterBuild s).plen.toNat - 12 = s.dlen.toNat := by omega
  obtain ⟨hnonce, hdata⟩ := readBytes_cut (by simp) hp
  have h20 : 20 ≤ (afterBuild s).plen.toNat := by omega
  have hct : heldCiphertext (afterBuild s) = s.d.readBytes 0 s.dlen.toNat := by
    rw [heldCiphertext_eq, hlen, hdata]
  have hparse : exec .parse (afterBuild s) = .next (afterParse (afterBuild s)) :=
    exec_parse hs.afterBuild.plen_le h20 (by rw [hlen, afterBuild_params]; exact hs.dlen_le)
  have hsame : afterParse (afterBuild s) = afterBuild s := by
    rw [afterParse, hct, slice_heldPacket_nonce h20, hnonce, nonceOfBytes_of_toList, hlen, afterBuild_d,
      writeBytes_readBytes hs.d_wf, BitVec.ofNat_toNat, BitVec.setWidth_eq]
    apply State.ext_fields <;> simp [hstatus]
  exact ⟨_, exec_build hs.dlen_le, hparse.trans (congrArg _ hsame)⟩

end Sys2Proof.Machine
